-- ==== Sys2Proof/Word.lean ====
section
/-! DEFINITION. The words of the CosaTM1637 engine and their plainest arithmetic. -/

namespace Sys2Proof

/-- One 8-bit unit: a segment pattern, a ROM entry, a byte on the wire (R7, R53). -/
abbrev Byte := BitVec 8

/-- The 64-bit host command word W (R70, R89). -/
abbrev CommandWord := BitVec 64

/-- `zext_8` of a one-bit flag: the flag in bit 0, zeros above (R8, R26). -/
def Byte.ofFlag (b : Bool) : Byte := if b then 1#8 else 0#8

end Sys2Proof
end

