-- ==== Sys2Proof/Config.lean ====
section
/-! DEFINITION. The parameters of R6: what is fixed for one engine and never changed by a command. -/

namespace Sys2Proof

/-- The parameters a model takes as arguments of its configuration (R6). SEG_LUT is the lookup ROM of R32:
sixteen segment patterns, 4-bit address. -/
structure Config where
  /-- SEG_LUT[0..15] (R32, R33). -/
  segLut : Vector Byte 16
  /-- CMD_AUTOINC, the data command byte (R86). -/
  cmdAutoinc : Byte
  /-- CMD_ADDR, the base of the address command byte (R86). -/
  cmdAddr : Byte
  /-- CMD_DISPLAY, the base of the display command byte (R86). -/
  cmdDisplay : Byte
  /-- BRIGHT_MAX, the greatest brightness BRIGHTNESS_SET accepts (R6, R205, conflict C1). -/
  brightMax : BitVec 3
  /-- STALL_US, the least length of one STALL in microseconds (R116). -/
  stallUs : Nat
  deriving DecidableEq, Repr

/-- COLON_BIT (R6, R24): bit 7 of a segment pattern. -/
def colonBit : Byte := 0x80#8

/-- NUM_DIGITS (R6): the digits of the display and the slots of the display buffer. -/
abbrev numDigits : Nat := 4

/-- NUMBER_WIDTH (R6): the width of SHOW's number. -/
abbrev numberWidth : Nat := 16

/-- The named brightness levels DIM, NORMAL and BRIGHT (R25). A name is no limit on the value. -/
inductive BrightnessLevel where
  | dim | normal | bright
  deriving DecidableEq, Repr

/-- The value of a named level (R25): DIM = 0, NORMAL = 2, BRIGHT = 3. -/
def BrightnessLevel.value : BrightnessLevel → BitVec 3
  | .dim => 0
  | .normal => 2
  | .bright => 3

/-- BRIGHT_RESET (R6, R260): NORMAL. -/
def brightReset : BitVec 3 := BrightnessLevel.normal.value

/-- The glyph table of R33, layout `0bXGFEDCBA` (R85). PRESUMED by the spec itself ("from general knowledge, not in
source", D16): log 9, unsafe. -/
def conventionalGlyphs : Vector Byte 16 :=
  #v[0x3F, 0x06, 0x5B, 0x4F, 0x66, 0x6D, 0x7D, 0x07, 0x7F, 0x6F, 0x77, 0x7C, 0x39, 0x5E, 0x79, 0x71]

/-- The values R6 fixes for this hardware. The command bytes are PRESUMED by the spec itself (D15): log 10, unsafe.
BRIGHT_MAX follows conflict C1: log 11, unsafe. -/
def Config.hardware : Config where
  segLut := conventionalGlyphs
  cmdAutoinc := 0x40
  cmdAddr := 0xC0
  cmdDisplay := 0x88
  brightMax := 7
  stallUs := 50

/-- What the spec requires of another choice of parameters: COLON_BIT is clear in every table entry (R34), and the
command bases leave room for the fields placed in them (R86). -/
def Config.wf (c : Config) : Bool :=
  c.segLut.toList.all (fun p => p &&& colonBit == 0#8) && c.cmdAddr &&& 0x03#8 == 0#8 && c.cmdDisplay &&& 0x07#8 == 0#8

/-- The platform pin bound to CLK at reset (R261). The spec gives no value and nothing reads it: log 21. -/
opaque Config.clkPin : Nat

/-- The platform pin bound to DIO at reset (R261). The spec gives no value and nothing reads it: log 21. -/
opaque Config.dioPin : Nat

end Sys2Proof
end

