-- ==== Sys2Proof/Syntax.lean ====
section
/-! DEFINITION. The host commands (R70 to R84), one constructor per row of spec/opcode_table.json. -/

namespace Sys2Proof

/-- A decoded host command with its raw operands: no clamp, mask or extension is applied at decode (R87). -/
inductive Instr where
  /-- CLEAR (R73, R150). -/
  | clear
  /-- SET count, position, p0, p1, p2, p3 (R74, R140). -/
  | set (count position p0 p1 p2 p3 : Byte)
  /-- SHOW number, lz, base, length, position (R75, R170). -/
  | showNumber (number : BitVec numberWidth) (lz : Bool) (base length position : Byte)
  /-- ENCODE digit (R76, R200). -/
  | encode (digit : Byte)
  /-- BRIGHTNESS_GET (R77, R203). -/
  | brightnessGet
  /-- BRIGHTNESS_SET v (R78, R205). -/
  | brightnessSet (v : Byte)
  /-- COLON_GET (R79, R208). -/
  | colonGet
  /-- COLON_SET flag (R80, R209). -/
  | colonSet (flag : Bool)
  /-- START (R81, R100). -/
  | start
  /-- STOP (R82, R103). -/
  | stop
  /-- WRITE byte (R83, R106). -/
  | write (byte : Byte)
  deriving DecidableEq, Repr

end Sys2Proof
end

