-- ==== Sys2Proof/WellFormed.lean ====
section
/-! DEFINITION. Which command terms a command word can spell. -/

namespace Sys2Proof

/-- SET sends at most four patterns: "legal 0 to 4" (R74, R84, R143). Every other operand value of every command is
legal. -/
def Instr.wellFormed : Instr → Bool
  | .clear => true
  | .set count _ _ _ _ _ => decide (count.toNat ≤ numDigits)
  | .showNumber _ _ _ _ _ => true
  | .encode _ => true
  | .brightnessGet => true
  | .brightnessSet _ => true
  | .colonGet => true
  | .colonSet _ => true
  | .start => true
  | .stop => true
  | .write _ => true

end Sys2Proof
end

