-- ==== Sys2Proof/Decode.lean ====
section
/-! DEFINITION. The decoder of R88, the opcode table it must agree with, and the encoder written from R73 to R83. -/

namespace Sys2Proof

/-- Why bytes spell no command (R84). Each of these leads to `raise Refuse(IllegalCommand)`. -/
inductive DecodeReject where
  /-- fewer than the eight bytes of a command word (R89) -/
  | truncated
  /-- OP is 0x0 or 0xC to 0xF (R72) -/
  | reservedOpcode
  /-- a bit the command's format reserves is set (R71) -/
  | reservedBits
  /-- a SET word with count above 4 (R143) -/
  | countTooLarge
  deriving DecidableEq, Repr

/-- What the decoder makes of a command word. -/
inductive Decoded where
  | command (i : Instr)
  | illegal (why : DecodeReject)
  deriving DecidableEq, Repr

/-- `W[lo+len-1:lo]` (R8). -/
def wordField (w : CommandWord) (lo len : Nat) : BitVec len := w.extractLsb' lo len

/-- `W[i]` as a flag (R8). -/
def wordFlag (w : CommandWord) (i : Nat) : Bool := w.getLsbD i

/-- One command if its reserved bits are all zero, else illegal (R71). -/
def Decoded.ifReservedZero (zero : Bool) (i : Instr) : Decoded := if zero then .command i else .illegal .reservedBits

/-- The decoder of R88, total on 64-bit words. -/
def decodeWord (w : CommandWord) : Decoded :=
  if wordField w 4 4 ≠ 0 then .illegal .reservedBits
  else match (wordField w 0 4).toNat with
  | 0x1 => .ifReservedZero (wordField w 8 56 == 0) .clear
  | 0x2 =>
    if (wordField w 8 8).toNat ≤ numDigits then
      .ifReservedZero (wordField w 24 8 == 0) (.set (wordField w 8 8) (wordField w 16 8)
        (wordField w 32 8) (wordField w 40 8) (wordField w 48 8) (wordField w 56 8))
    else .illegal .countTooLarge
  | 0x3 => .ifReservedZero (wordField w 9 7 == 0 && wordField w 40 8 == 0) (.showNumber (wordField w 48 16) (wordFlag w 8)
        (wordField w 16 8) (wordField w 24 8) (wordField w 32 8))
  | 0x4 => .ifReservedZero (wordField w 16 48 == 0) (.encode (wordField w 8 8))
  | 0x5 => .ifReservedZero (wordField w 8 56 == 0) .brightnessGet
  | 0x6 => .ifReservedZero (wordField w 16 48 == 0) (.brightnessSet (wordField w 8 8))
  | 0x7 => .ifReservedZero (wordField w 8 56 == 0) .colonGet
  | 0x8 => .ifReservedZero (wordField w 9 55 == 0) (.colonSet (wordFlag w 8))
  | 0x9 => .ifReservedZero (wordField w 8 56 == 0) .start
  | 0xA => .ifReservedZero (wordField w 8 56 == 0) .stop
  | 0xB => .ifReservedZero (wordField w 16 48 == 0) (.write (wordField w 8 8))
  | _ => .illegal .reservedOpcode

/-- A command word as a host serialises it: byte i carries `W[8i+7:8i]` (R52). -/
def bytesOfWord (w : CommandWord) : List Byte := (List.range 8).map fun i => wordField w (8 * i) 8

/-- The command word of the first eight bytes, and the bytes after them (R52, R89). -/
def wordOfBytes : List Byte → Option (CommandWord × List Byte)
  | b0 :: b1 :: b2 :: b3 :: b4 :: b5 :: b6 :: b7 :: rest => some (b7 ++ b6 ++ b5 ++ b4 ++ b3 ++ b2 ++ b1 ++ b0, rest)
  | _ => none

/-- The decoder over any bytes: one command word and the bytes after it. -/
def decodeBytes (bs : List Byte) : Decoded × List Byte :=
  match wordOfBytes bs with
  | some (w, rest) => (decodeWord w, rest)
  | none => (.illegal .truncated, [])

/-- The command of a decoding, if it is one. -/
def Decoded.instr? : Decoded → Option Instr
  | .command i => some i
  | .illegal _ => none

/-- The command word whose low `nbits` bits are those of `w` and whose other bits are 0. -/
def tableWord (nbits w : Nat) : CommandWord := BitVec.ofNat 64 (w % 2 ^ nbits)

/-- The instruction the decoder reads from an opcode-table word, laid out as bytes (R52) and read back. -/
def decodeTableWord (nbits w : Nat) : Option Instr := (decodeBytes (bytesOfWord (tableWord nbits w))).1.instr?

/-- One row of spec/opcode_table.json: a word spells the command when `w &&& mask = pattern` (and, for SET, its count is
legal). -/
structure OpcodeRow where
  mask : CommandWord
  pattern : CommandWord
  deriving DecidableEq, Repr

/-- The row of spec/opcode_table.json for a command's constructor. -/
def Instr.row : Instr → OpcodeRow
  | .clear => ⟨0xFFFFFFFFFFFFFFFF, 0x1⟩
  | .set _ _ _ _ _ _ => ⟨0x00000000FF0000FF, 0x2⟩
  | .showNumber _ _ _ _ _ => ⟨0x0000FF000000FEFF, 0x3⟩
  | .encode _ => ⟨0xFFFFFFFFFFFF00FF, 0x4⟩
  | .brightnessGet => ⟨0xFFFFFFFFFFFFFFFF, 0x5⟩
  | .brightnessSet _ => ⟨0xFFFFFFFFFFFF00FF, 0x6⟩
  | .colonGet => ⟨0xFFFFFFFFFFFFFFFF, 0x7⟩
  | .colonSet _ => ⟨0xFFFFFFFFFFFFFEFF, 0x8⟩
  | .start => ⟨0xFFFFFFFFFFFFFFFF, 0x9⟩
  | .stop => ⟨0xFFFFFFFFFFFFFFFF, 0xA⟩
  | .write _ => ⟨0xFFFFFFFFFFFF00FF, 0xB⟩

/-- The word lies in the row. -/
def OpcodeRow.holds (r : OpcodeRow) (w : CommandWord) : Bool := w &&& r.mask == r.pattern

/-- The eleven rows of the table, in its order. -/
def opcodeRows : List OpcodeRow :=
  [Instr.clear.row, (Instr.set 0 0 0 0 0 0).row, (Instr.showNumber 0 false 0 0 0).row, (Instr.encode 0).row,
   Instr.brightnessGet.row, (Instr.brightnessSet 0).row, Instr.colonGet.row, (Instr.colonSet false).row,
   Instr.start.row, Instr.stop.row, (Instr.write 0).row]

/-- The row of SET (R74). -/
def setRow : OpcodeRow := (Instr.set 0 0 0 0 0 0).row

/-- A word with one operand byte in `W[15:8]` and the opcode byte below it (R76, R78, R83). -/
def byteWord (operand op : Byte) : CommandWord := 0#48 ++ operand ++ op

/-- The encoder: the word of a command, field by field from R73 to R83. -/
def encode : Instr → CommandWord
  | .clear => 0x1
  | .set count position p0 p1 p2 p3 => p3 ++ p2 ++ p1 ++ p0 ++ 0#8 ++ position ++ count ++ 0x02#8
  | .showNumber number lz base length position =>
    number ++ 0#8 ++ position ++ length ++ base ++ Byte.ofFlag lz ++ 0x03#8
  | .encode digit => byteWord digit 0x04
  | .brightnessGet => 0x5
  | .brightnessSet v => byteWord v 0x06
  | .colonGet => 0x7
  | .colonSet flag => byteWord (Byte.ofFlag flag) 0x08
  | .start => 0x9
  | .stop => 0xA
  | .write byte => byteWord byte 0x0B

end Sys2Proof
end

