-- ==== Sys2Proof/Machine/State.lean ====
section
/-! DEFINITION. Everything the spec gives the engine (R20), as plain data, and its value after reset (R260). -/

namespace Sys2Proof.Machine

/-- The line event alphabet of R29. -/
inductive Event where
  /-- drive clock low -/
  | clkL
  /-- drive clock high -/
  | clkH
  /-- drive data low; requires DIO_DIR = OUT -/
  | dioL
  /-- drive data high; requires DIO_DIR = OUT -/
  | dioH
  /-- release data line to high-impedance input -/
  | dioIn
  /-- return data line to output, driven low; one event (D10) -/
  | dioOutL
  /-- wait one stall unit -/
  | stall
  deriving DecidableEq, Repr

/-- DIO_DIR (R28): OUT, the engine drives DIO, or IN, its driver is high-impedance. -/
inductive DioDir where
  | output | input
  deriving DecidableEq, Repr

/-- FRAME (R31): IDLE or OPEN. -/
inductive Framing where
  | idle | opened
  deriving DecidableEq, Repr

/-- The line latches of R20: `true` is the level high (R27, R28). -/
structure Lines where
  /-- CLK_OUT -/
  clkOut : Bool
  /-- DIO_DIR -/
  dioDir : DioDir
  /-- DIO_OUT -/
  dioOut : Bool
  deriving DecidableEq, Repr

/-- The closed list of refusal reasons of R233. A refusal is a NEXT state with REFUSED set (log 3). -/
inductive RefuseReason where
  /-- decode: reserved opcode, reserved bit set, or SET count above 4 (R84) -/
  | illegalCommand
  /-- START with FRAME = OPEN (R101) -/
  | startInFrame
  /-- START with CLK_OUT = 0 (R101) -/
  | startClockLow
  /-- STOP with FRAME = IDLE (R105) -/
  | stopOutsideFrame
  /-- WRITE with FRAME = IDLE (R109) -/
  | writeOutsideFrame
  /-- a command issued while another is executing (R236) -/
  | secondHost
  deriving DecidableEq, Repr

/-- One command reaching the command interface (R70): an input of the model (log 1, log 2). -/
inductive HostIssue where
  /-- issued, as R70 asks, when the command before it had completed -/
  | command (w : CommandWord)
  /-- issued, by a second host, while another command was executing (R236) -/
  | overlapped (w : CommandWord)
  deriving DecidableEq, Repr

/-- Why a step can stop. The hardware raises no fault (R230); this is a state the spec gives no effect in. -/
inductive Fault where
  /-- DIO_L or DIO_H emitted while DIO_DIR = IN, which R29 excludes ("requires DIO_DIR = OUT"). Raised by `emit`, so by
  START, STOP, WRITE, SET, SHOW and CLEAR, only in states no command leaves behind. Safe: the model stops where the spec
  gives no effect (log 7). -/
  | dioDrivenWhileReleased
  deriving DecidableEq, Repr

/-- Why an instruction has no meaning. Refusals of R233 are no such thing (log 3). -/
inductive Refusal where
  /-- raised by exec alone, for an instruction not modelled yet; no arm raises it. Safe. -/
  | notModelled (mnemonic : String)
  deriving DecidableEq, Repr

/-- The state of the engine: every row of R20, the parameters of R6, and two fields of the model's own (`reasons`,
`host`). The display buffer is "not state between commands" (R20, R35). -/
structure State where
  /-- the parameters of R6, SEG_LUT (R32) among them; no command changes them (log 8) -/
  config : Config
  /-- BRIGHTNESS (R23) -/
  brightness : BitVec 3
  /-- COLON (R24) -/
  colon : Bool
  /-- CLK_OUT, DIO_DIR and DIO_OUT (R27, R28) -/
  lines : Lines
  /-- FRAME (R31) -/
  frame : Framing
  /-- TRACE (R30), oldest event first -/
  trace : List Event
  /-- RESULT (R26) -/
  result : Option Byte
  /-- REFUSED (R233), sticky -/
  refused : Bool
  /-- the reasons of the refusals so far, oldest first; the model's own (log 5) -/
  reasons : List RefuseReason
  /-- the commands issued and not yet taken, oldest first; the model's own (log 1) -/
  host : List HostIssue
  deriving DecidableEq, Repr

/-- The idle line state of R102 and R260: both lines driven high. -/
def Lines.idle : Lines := ⟨true, .output, true⟩

/-- The machine right after reset (R260). -/
def State.reset : State where
  config := Config.hardware
  brightness := brightReset
  colon := false
  lines := Lines.idle
  frame := .idle
  trace := []
  result := none
  refused := false
  reasons := []
  host := []

end Sys2Proof.Machine
end

