-- ==== Sys2Proof/Machine/Flags.lean ====
section
/-! DEFINITION. The one-bit values of the block. It has no arithmetic flags ("The block has no flags"); COLON is its only
flag a host can read or write, and it reaches the wire as COLON_BIT. -/

namespace Sys2Proof.Machine

/-- What COLON adds to a data byte: COLON_BIT when it is on, 0x00 when it is off (R140, R141). -/
def colonMask (colon : Bool) : Byte := if colon then colonBit else 0x00

/-- `zext_8` of a flag, as the colon commands return it (R26, R208, R209). -/
def flagResult (flag : Bool) : Byte := Byte.ofFlag flag

end Sys2Proof.Machine
end

