-- ==== Sys2Proof/Machine/Operands.lean ====
section
/-! DEFINITION. Every operand form: the ROM read, the masks of SET and ENCODE, the clamps and the display buffer of
SHOW, and the three chip command bytes. -/

namespace Sys2Proof.Machine

/-- `MemRead(LUT, i, 1)`: the ROM has a 4-bit address (R9, R32, R50). -/
def readLut (c : Config) (i : BitVec 4) : Byte := c.segLut[i.toNat]

/-- ENCODE's mask `digit & 0xF` (R200). -/
def maskDigit (digit : Byte) : BitVec 4 := (digit &&& 0x0F).setWidth 4

/-- The data command byte (R86). -/
def autoincByte (s : State) : Byte := s.config.cmdAutoinc

/-- The address command byte `CMD_ADDR | (position & 0x3)` (R141). -/
def addressByte (s : State) (position : Byte) : Byte := s.config.cmdAddr ||| (position &&& 0x3)

/-- A data byte of SET: the pattern, with COLON_BIT while COLON = 1 (R141). -/
def dataByte (s : State) (pattern : Byte) : Byte := pattern ||| colonMask s.colon

/-- The display command byte `CMD_DISPLAY | (BRIGHTNESS & 0x7)` (R142). -/
def displayByte (s : State) : Byte := s.config.cmdDisplay ||| (s.brightness &&& 0x7).setWidth 8

/-- SHOW's base clamp: 2, 10 or 16, "any other value is forced to 16" (R171). -/
def clampBase (base : Byte) : Byte := if base ≠ 2 ∧ base ≠ 10 ∧ base ≠ 16 then 16 else base

/-- SHOW's position clamp: "out-of-range forced to 0" (R171). -/
def clampPosition (position : Byte) : Byte := if position > 3 then 0 else position

/-- SHOW's length clamp: "0 forced to 1; >4 forced to 4" (R171). -/
def clampLength (length : Byte) : Byte := if length = 0 then 1 else if length > 4 then 4 else length

/-- The display buffer of R35: four slots, each a segment pattern or BLANK (`none`, R36). -/
abbrev Buf := Vector (Option Byte) numDigits

/-- Every slot BLANK. -/
def Buf.blank : Buf := Vector.replicate numDigits none

/-- The nonzero loop of SHOW's step 2 (R170, R173) with `left = i + 1` slots still to fill: the loop's index counts down
from `left - 1`, and it stops at n = 0 or when no slot is left (log 13). -/
def fillDigits (c : Config) (base : Nat) : (left n : Nat) → Buf → Buf
  | 0, _, buf => buf
  | i + 1, n, buf =>
    if n = 0 then buf
    else fillDigits c base i (n / base) (buf.setIfInBounds i (some (readLut c (BitVec.ofNat 4 (n % base)))))

/-- SHOW's step 2 (R172, R173), its operands clamped. -/
def convert (c : Config) (number : BitVec numberWidth) (base length : Byte) : Buf :=
  if number = 0 then Buf.blank.setIfInBounds (length.toNat - 1) (some (readLut c 0))
  else fillDigits c base.toNat length.toNat number.toNat Buf.blank

/-- What a BLANK slot becomes: SEG_LUT[0] with leading zeros, the true-blank pattern without (R176). -/
def blankFill (c : Config) (lz : Bool) : Byte := if lz then readLut c 0 else 0x00

/-- SHOW's step 3, over all four slots (R176). -/
def resolveBlanks (c : Config) (lz : Bool) (buf : Buf) : Vector Byte numDigits := buf.map (·.getD (blankFill c lz))

/-- The four resolved slots of SHOW (R170, steps 2 and 3), its operands clamped. -/
def showBuffer (c : Config) (number : BitVec numberWidth) (lz : Bool) (base length : Byte) : Vector Byte numDigits :=
  resolveBlanks c lz (convert c number base length)

/-- The all-zero buffer of CLEAR (R150). -/
def zeroBuffer : Vector Byte numDigits := #v[0x00, 0x00, 0x00, 0x00]

end Sys2Proof.Machine
end

