-- ==== Sys2Proof/Machine/Ops.lean ====
section
/-! DEFINITION. The named operations every command is made of: the line events and `emit`, `raise Refuse`, the
primitives START, WRITE and STOP, one transaction, and SET's three transactions. Nothing traps (R230): `raise Refuse` is
what stands in an exception's place, and it has no return (R234). -/

namespace Sys2Proof.Machine

/-- The state change of a line event (R29). -/
def Lines.apply (l : Lines) : Event → Lines
  | .clkL => { l with clkOut := false }
  | .clkH => { l with clkOut := true }
  | .dioL => { l with dioOut := false }
  | .dioH => { l with dioOut := true }
  | .dioIn => { l with dioDir := .input }
  | .dioOutL => { l with dioDir := .output, dioOut := false }
  | .stall => l

/-- The requirement R29 puts on DIO_L and DIO_H: DIO_DIR = OUT. -/
def Lines.admits (l : Lines) : Event → Bool
  | .dioL | .dioH => l.dioDir == .output
  | .clkL | .clkH | .dioIn | .dioOutL | .stall => true

/-- The lines after a list of events. -/
def Lines.replay (l : Lines) (es : List Event) : Lines := es.foldl Lines.apply l

/-- Every event of the list meets its requirement where it stands. -/
def Lines.admitsAll : Lines → List Event → Bool
  | _, [] => true
  | l, e :: es => l.admits e && (l.apply e).admitsAll es

/-- The level the engine drives on DIO: DIO_OUT while DIO_DIR = OUT, nothing while it is IN (R28). -/
def Lines.dioDriven (l : Lines) : Option Bool :=
  match l.dioDir with
  | .output => some l.dioOut
  | .input => none

/-- RESULT <- v, or none (R26). -/
def State.withResult (s : State) (v : Option Byte) : State := { s with result := v }

/-- BRIGHTNESS <- v (R23). -/
def State.withBrightness (s : State) (v : BitVec 3) : State := { s with brightness := v }

/-- COLON <- v (R24). -/
def State.withColon (s : State) (v : Bool) : State := { s with colon := v }

/-- FRAME <- v (R31). -/
def State.withFrame (s : State) (v : Framing) : State := { s with frame := v }

/-- The events still to be taken from the command interface (R70). -/
def State.withHost (s : State) (v : List HostIssue) : State := { s with host := v }

/-- The events appended to TRACE and the lines moved by them (R29, R30). -/
def State.append (s : State) (es : List Event) : State :=
  { s with lines := s.lines.replay es, trace := s.trace ++ es }

/-- `raise Refuse(reason)` (R9, R233): no event, no register changed, REFUSED <- 1. The reason is kept in `reasons`
(log 5) and RESULT keeps its value (log 4). -/
def State.refuse (s : State) (r : RefuseReason) : State := { s with refused := true, reasons := s.reasons ++ [r] }

/-- How the body of a command ends: it ran, it raised a refusal of R233, or it met a requirement of R29 the state does
not meet. -/
inductive Flow where
  | done (s : State)
  | raised (r : RefuseReason)
  | stopped (f : Fault)
  deriving DecidableEq, Repr

/-- One body after another; a refusal or a fault ends the whole command. -/
def Flow.andThen (x : Flow) (k : State → Flow) : Flow :=
  match x with
  | .done s => k s
  | .raised r => .raised r
  | .stopped f => .stopped f

/-- `emit(e)` (R9, R29): the event's state change, and the event at the end of TRACE. -/
def emit (e : Event) (s : State) : Flow :=
  if s.lines.admits e then .done { s with lines := s.lines.apply e, trace := s.trace ++ [e] }
  else .stopped .dioDrivenWhileReleased

/-- Emit a list of events in order (R56). -/
def emits : List Event → State → Flow
  | [], s => .done s
  | e :: es, s => (emit e s).andThen (emits es)

/-- START's events (R100). -/
def startEvents : List Event := [.dioL, .stall]

/-- STOP's events (R103). -/
def stopEvents : List Event := [.dioL, .stall, .clkH, .stall, .dioH, .stall]

/-- The data event of a bit (R106). -/
def dataEvent (bit : Bool) : Event := if bit then .dioH else .dioL

/-- The events of one data bit (R106). -/
def bitEvents (bit : Bool) : List Event := [.clkL, .stall, dataEvent bit, .stall, .clkH, .stall]

/-- WRITE's working copy, `k` bits of it: `data[0]` first, then `data >> 1` (R106). -/
def shiftedBits : (k : Nat) → (data : Byte) → List Bool
  | 0, _ => []
  | k + 1, data => data.getLsbD 0 :: shiftedBits k (data >>> 1)

/-- The acknowledgement window (R106, R112): driven, not sampled (log 15). -/
def ackEvents : List Event :=
  [.clkL, .stall, .dioIn, .stall, .clkH, .stall, .dioOutL, .stall, .clkL, .stall]

/-- WRITE's 58 events (R106). -/
def writeEvents (byte : Byte) : List Event := (shiftedBits 8 byte).flatMap bitEvents ++ ackEvents

/-- START's effect (R100): its two events, FRAME open. Inside SET this is all of START, since public commands "are never
refused after decode" (R235; log 6). -/
def openFrame (s : State) : Flow := (emits startEvents s).andThen fun t => .done (t.withFrame .opened)

/-- START as the host issues it (R100): the two refusals of R101 in the order of R235, then its effect. -/
def callStart (s : State) : Flow :=
  if s.frame = .opened then .raised .startInFrame
  else if s.lines.clkOut = false then .raised .startClockLow
  else openFrame s

/-- STOP as a step other commands call (R103, R105). -/
def callStop (s : State) : Flow :=
  if s.frame = .idle then .raised .stopOutsideFrame
  else (emits stopEvents s).andThen fun t => .done (t.withFrame .idle)

/-- WRITE as a step other commands call (R106, R109). -/
def callWrite (byte : Byte) (s : State) : Flow :=
  if s.frame = .idle then .raised .writeOutsideFrame
  else emits (writeEvents byte) s

/-- One WRITE after another, in order (R52). -/
def callWrites : List Byte → State → Flow
  | [], s => .done s
  | b :: bs, s => (callWrite b s).andThen (callWrites bs)

/-- One transaction of SET: START, WRITEs, STOP (R11, R140). -/
def transaction (bytes : List Byte) (s : State) : Flow :=
  (openFrame s).andThen fun t => (callWrites bytes t).andThen callStop

/-- The patterns SET sends: the first `count` of the four (R140). -/
def sentPatterns (count : Byte) (p : Vector Byte numDigits) : List Byte := p.toList.take count.toNat

/-- The bytes of SET's second transaction (R140, R141). -/
def dataFrame (s : State) (count position : Byte) (p : Vector Byte numDigits) : List Byte :=
  addressByte s position :: (sentPatterns count p).map (dataByte s)

/-- SET as a step other commands call: its three transactions, each reading the state it starts from (R140). -/
def callSet (count position : Byte) (p : Vector Byte numDigits) (s : State) : Flow :=
  (transaction [autoincByte s] s).andThen fun t =>
    (transaction (dataFrame t count position p) t).andThen fun u =>
      transaction [displayByte u] u

/-- A command as the host sees it: its body on the state it was issued in, RESULT none (R26); a refusal drops the whole
body and marks the state the command was issued in (R233). -/
def runCommand (body : State → Flow) (s : State) : Host.Outcome State Fault Refusal :=
  match body s with
  | .done t => .next (t.withResult none)
  | .raised r => .next (s.refuse r)
  | .stopped f => .fault f

/-- A command that answers at once: `result(v)` (R9, R26). -/
def respond (v : Byte) (s : State) : Host.Outcome State Fault Refusal := .next (s.withResult (some v))

end Sys2Proof.Machine
end

