-- ==== Sys2Proof/Machine/Accessors.lean ====
section
/-! DEFINITION. The accessors ENCODE, BRIGHTNESS_GET, BRIGHTNESS_SET, COLON_GET, COLON_SET (spec/43_accessors.md). -/

namespace Sys2Proof.Machine

/-- ENCODE (R200). -/
def execEncode (digit : Byte) (s : State) : Host.Outcome State Fault Refusal :=
  respond (readLut s.config (maskDigit digit)) s

/-- `zext_8(BRIGHTNESS)` (R203). -/
def brightnessResult (s : State) : Byte := s.brightness.setWidth 8

/-- BRIGHTNESS_GET (R203). -/
def execBrightnessGet (s : State) : Host.Outcome State Fault Refusal := respond (brightnessResult s) s

/-- BRIGHTNESS as BRIGHTNESS_SET leaves it: `v[2:0]` when `v <= BRIGHT_MAX`, else unchanged (R205). -/
def nextBrightness (s : State) (v : Byte) : BitVec 3 :=
  if v ≤ s.config.brightMax.setWidth 8 then v.setWidth 3 else s.brightness

/-- BRIGHTNESS_SET (R205): RESULT is the previous value in both branches. -/
def execBrightnessSet (v : Byte) (s : State) : Host.Outcome State Fault Refusal :=
  respond (brightnessResult s) (s.withBrightness (nextBrightness s v))

/-- COLON_GET (R208). -/
def execColonGet (s : State) : Host.Outcome State Fault Refusal := respond (flagResult s.colon) s

/-- COLON_SET (R209): RESULT is the previous flag. -/
def execColonSet (flag : Bool) (s : State) : Host.Outcome State Fault Refusal :=
  respond (flagResult s.colon) (s.withColon flag)

end Sys2Proof.Machine
end

