-- ==== Sys2Proof/Machine/Protocol.lean ====
section
/-! DEFINITION. The protocol primitives as host commands: START, STOP, WRITE (spec/40_protocol.md). -/

namespace Sys2Proof.Machine

/-- START (R100, R101). -/
def execStart (s : State) : Host.Outcome State Fault Refusal := runCommand callStart s

/-- STOP (R103, R105). -/
def execStop (s : State) : Host.Outcome State Fault Refusal := runCommand callStop s

/-- WRITE byte (R106, R109). -/
def execWrite (byte : Byte) (s : State) : Host.Outcome State Fault Refusal := runCommand (callWrite byte) s

end Sys2Proof.Machine
end

