-- ==== Sys2Proof/Machine/SetClear.lean ====
section
/-! DEFINITION. The raw display commands SET and CLEAR (spec/41_set_clear.md). -/

namespace Sys2Proof.Machine

/-- SET (R140). A count above 4 is refused at decode (R143); a term with such a count is refused here alike (log 19). -/
def execSet (count position p0 p1 p2 p3 : Byte) (s : State) : Host.Outcome State Fault Refusal :=
  if count.toNat ≤ numDigits then runCommand (callSet count position #v[p0, p1, p2, p3]) s
  else .next (s.refuse .illegalCommand)

/-- CLEAR's body (R150): COLON saved, cleared, SET called, COLON restored. -/
def callClear (s : State) : Flow :=
  (callSet 4 0 zeroBuffer (s.withColon false)).andThen fun t => .done (t.withColon s.colon)

/-- CLEAR (R150). -/
def execClear (s : State) : Host.Outcome State Fault Refusal := runCommand callClear s

end Sys2Proof.Machine
end

