-- ==== Sys2Proof/Machine/Show.lean ====
section
/-! DEFINITION. The number formatter SHOW (spec/42_show.md). -/

namespace Sys2Proof.Machine

/-- SHOW (R170): the clamps, then the conversion and blank resolution, then SET with the clamped length and position. -/
def execShowNumber (number : BitVec numberWidth) (lz : Bool) (base length position : Byte) (s : State) :
    Host.Outcome State Fault Refusal :=
  runCommand (callSet (clampLength length) (clampPosition position)
    (showBuffer s.config number lz (clampBase base) (clampLength length))) s

end Sys2Proof.Machine
end

