-- ==== Sys2Proof/Machine/Dispatch.lean ====
section
/-! DEFINITION. One arm per command. -/

namespace Sys2Proof.Machine

def exec (i : Instr) (s : State) : Host.Outcome State Fault Refusal :=
  match i with
  | .clear => Sys2Proof.Machine.execClear s
  | .set count position p0 p1 p2 p3 => Sys2Proof.Machine.execSet count position p0 p1 p2 p3 s
  | .showNumber number lz base length position => Sys2Proof.Machine.execShowNumber number lz base length position s
  | .encode digit => Sys2Proof.Machine.execEncode digit s
  | .brightnessGet => Sys2Proof.Machine.execBrightnessGet s
  | .brightnessSet v => Sys2Proof.Machine.execBrightnessSet v s
  | .colonGet => Sys2Proof.Machine.execColonGet s
  | .colonSet flag => Sys2Proof.Machine.execColonSet flag s
  | .start => Sys2Proof.Machine.execStart s
  | .stop => Sys2Proof.Machine.execStop s
  | .write byte => Sys2Proof.Machine.execWrite byte s

end Sys2Proof.Machine
end

