-- ==== Sys2Proof/Machine/Interface.lean ====
section
/-! DEFINITION. The command interface (R70): which issue is taken next, what it is admitted as, and how the host places a
command. -/

namespace Sys2Proof.Machine

/-- An issue received as a command or refused, in the order of R235: `SecondHost` before `IllegalCommand`. -/
inductive Admission where
  | run (i : Instr)
  | refuse (r : RefuseReason)
  deriving DecidableEq, Repr

/-- R235 steps 1 and 2, with the decoder of R88. -/
def receive : HostIssue → Admission
  | .overlapped _ => .refuse .secondHost
  | .command w =>
    match decodeWord w with
    | .command i => .run i
    | .illegal _ => .refuse .illegalCommand

/-- The step of an engine to which no command is issued: it waits, with "no background activity" (R242, R260). -/
def idleStep (s : State) : Host.Outcome State Fault Refusal := .next s

/-- The state after a refused issue: the issue is dropped and the refusal marked (R84, R233, R236). -/
def refuseIssue (r : RefuseReason) (s : State) : Host.Outcome State Fault Refusal := .next (s.refuse r)

/-- The host issues a command, to be taken before those already issued (log 1). -/
def placeCommand (s : State) (w : CommandWord) : State := s.withHost (.command w :: s.host)

end Sys2Proof.Machine
end

