-- ==== Sys2Proof/Machine/Step.lean ====
section
/-! DEFINITION. One step: the oldest issue is taken from the command interface, admitted and run to completion (R10,
R70). -/

namespace Sys2Proof.Machine

/-- One command runs in one step (R10); with none issued the engine waits (R242). -/
def step (s : State) : Host.Outcome State Fault Refusal :=
  match s.host with
  | [] => idleStep s
  | issue :: rest =>
    match receive issue with
    | .run i => exec i (s.withHost rest)
    | .refuse r => refuseIssue r (s.withHost rest)

/-- The host issues the command word made of the low `nbits` bits of `w`; the very next step takes it (log 1). -/
def State.withFetchWord (s : State) (nbits w : Nat) : State := placeCommand s (tableWord nbits w)

end Sys2Proof.Machine
end

