-- ==== Sys2Proof/Machine/Assembler.lean ====
section
/-! DEFINITION. The assembler of R90 and the pseudo-commands of R91: from a line's mnemonic and numbers to its command, and
from a line of text to its mnemonic and numbers (log 26). -/

namespace Sys2Proof.Machine

/-- The mnemonics of R90 and the pseudo-commands of R91. -/
inductive Mnemonic where
  | clear | set | showNumber | encode | brightnessGet | brightnessSet | colonGet | colonSet | start | stop | write
  | set4 | showD | showZ
  | brightnessLevel (level : BrightnessLevel)
  deriving DecidableEq, Repr

/-- An operand in its field, if it fits ("Flags are `0` or `1`", widths of R7; log 26). -/
def operand (width n : Nat) : Option (BitVec width) := if n < 2 ^ width then some (BitVec.ofNat width n) else none

/-- A flag operand (R90). -/
def flagOperand : Nat → Option Bool
  | 0 => some false
  | 1 => some true
  | _ => none

/-- `SET count, position, p0, ...` with the patterns written, "p_k for k >= count may be omitted and encode as 0" (R90). -/
def assembleSet (count position : Nat) (patterns : List Nat) : Option Instr :=
  if count ≤ numDigits ∧ count ≤ patterns.length ∧ patterns.length ≤ numDigits then do
    let c ← operand 8 count
    let pos ← operand 8 position
    let p0 ← operand 8 (patterns.getD 0 0)
    let p1 ← operand 8 (patterns.getD 1 0)
    let p2 ← operand 8 (patterns.getD 2 0)
    let p3 ← operand 8 (patterns.getD 3 0)
    some (.set c pos p0 p1 p2 p3)
  else none

/-- `SHOW number, lz, base, length, position` (R90). -/
def assembleShow (number lz base length position : Nat) : Option Instr := do
  let n ← operand numberWidth number
  let z ← flagOperand lz
  let b ← operand 8 base
  let l ← operand 8 length
  let p ← operand 8 position
  some (.showNumber n z b l p)

/-- One line of assembly: a mnemonic and its operands in the order of R90 and R91. -/
def assemble : Mnemonic → List Nat → Option Instr
  | .clear, [] => some .clear
  | .set, count :: position :: patterns => assembleSet count position patterns
  | .showNumber, [number, lz, base, length, position] => assembleShow number lz base length position
  | .encode, [digit] => (operand 8 digit).map .encode
  | .brightnessGet, [] => some .brightnessGet
  | .brightnessSet, [v] => (operand 8 v).map .brightnessSet
  | .colonGet, [] => some .colonGet
  | .colonSet, [flag] => (flagOperand flag).map .colonSet
  | .start, [] => some .start
  | .stop, [] => some .stop
  | .write, [byte] => (operand 8 byte).map .write
  | .set4, [p0, p1, p2, p3] => assembleSet 4 0 [p0, p1, p2, p3]
  | .showD, [number] => assembleShow number 0 10 4 0
  | .showZ, [number] => assembleShow number 1 10 4 0
  | .brightnessLevel level, [] => some (.brightnessSet (level.value.setWidth 8))
  | _, _ => none

/-- The word of one line of assembly. -/
def assembleWord (m : Mnemonic) (operands : List Nat) : Option CommandWord := (assemble m operands).map encode

/-! ### Lines of text -/

/-- The value of a digit, decimal or hexadecimal in either case. -/
def digitValue (c : Char) : Option Nat :=
  if '0' ≤ c ∧ c ≤ '9' then some (c.toNat - '0'.toNat)
  else if 'a' ≤ c ∧ c ≤ 'f' then some (c.toNat - 'a'.toNat + 10)
  else if 'A' ≤ c ∧ c ≤ 'F' then some (c.toNat - 'A'.toNat + 10)
  else none

/-- The number the digits of a base spell, after `acc`. -/
def readDigits (base : Nat) : (acc : Nat) → List Char → Option Nat
  | acc, [] => some acc
  | acc, c :: cs =>
    match digitValue c with
    | some d => if d < base then readDigits base (acc * base + d) cs else none
    | none => none

/-- "Operands are decimal, or hex with `0x`" (R90). -/
def readNumber : List Char → Option Nat
  | [] => none
  | ['0', 'x'] => none
  | '0' :: 'x' :: digits => readDigits 16 0 digits
  | digits => readDigits 10 0 digits

/-- The mnemonics as R90 and R91 spell them. -/
def Mnemonic.spelling : Mnemonic → String
  | .clear => "CLEAR"
  | .set => "SET"
  | .showNumber => "SHOW"
  | .encode => "ENCODE"
  | .brightnessGet => "BRIGHTNESS_GET"
  | .brightnessSet => "BRIGHTNESS_SET"
  | .colonGet => "COLON_GET"
  | .colonSet => "COLON_SET"
  | .start => "START"
  | .stop => "STOP"
  | .write => "WRITE"
  | .set4 => "SET4"
  | .showD => "SHOWD"
  | .showZ => "SHOWZ"
  | .brightnessLevel .dim => "BRIGHTNESS_SET DIM"
  | .brightnessLevel .normal => "BRIGHTNESS_SET NORMAL"
  | .brightnessLevel .bright => "BRIGHTNESS_SET BRIGHT"

/-- Every mnemonic, each pseudo-command that carries a level's name in it first. -/
def mnemonics : List Mnemonic :=
  [.brightnessLevel .dim, .brightnessLevel .normal, .brightnessLevel .bright, .clear, .set, .showNumber, .encode,
   .brightnessGet, .brightnessSet, .colonGet, .colonSet, .start, .stop, .write, .set4, .showD, .showZ]

/-- The characters of a text less a word at its head, if the word stands there. -/
def afterWord : (word text : List Char) → Option (List Char)
  | [], text => some text
  | _ :: _, [] => none
  | w :: word, c :: text => if w = c then afterWord word text else none

/-- A list of operands: numbers with `, ` between them (R90). `acc` holds the characters of the number being read, last
first. -/
def readOperands : (acc : List Char) → List Char → Option (List Nat)
  | acc, [] => (readNumber acc.reverse).map ([·])
  | acc, ',' :: ' ' :: cs =>
    match readNumber acc.reverse, readOperands [] cs with
    | some n, some ns => some (n :: ns)
    | _, _ => none
  | acc, c :: cs => readOperands (c :: acc) cs

/-- What follows a mnemonic: nothing, or one space and the operands (R90). -/
def readRest : List Char → Option (List Nat)
  | [] => some []
  | ' ' :: cs => readOperands [] cs
  | _ => none

/-- A line of text as the mnemonic that leaves a list of operands, if there is one. -/
def readLine (line : String) : Option (Mnemonic × List Nat) :=
  mnemonics.findSome? fun m => ((afterWord m.spelling.toList line.toList).bind readRest).map fun ns => (m, ns)

/-- The word of a line of text (R90, R91). -/
def assembleText (line : String) : Option CommandWord := (readLine line).bind fun l => assembleWord l.1 l.2

end Sys2Proof.Machine
end

