-- ==== Sys2Proof/Machine/TxLog.lean ====
section
/-! DEFINITION. What TRACE shows: the transaction log TXLOG of R114, rebuilt from TRACE, the levels and conditions on the
wire (R102, R104, R107), and the STALL counts of R269. None of it is state. -/

namespace Sys2Proof.Machine

/-- A frame of TXLOG: its bytes in order (R114). -/
abbrev Frame := List Byte

/-- A frame as TXLOG holds it: its bytes, and whether STOP has closed it (R114). -/
structure LoggedFrame where
  bytes : Frame
  closed : Bool
  deriving DecidableEq, Repr

/-- TXLOG (R114): the frames, oldest first. A frame that a SET, SHOW or CLEAR found open stays unclosed (log 20). -/
abbrev TxLog := List LoggedFrame

/-- The bytes of each frame: TXLOG as 95_test_vectors.md writes it. -/
def TxLog.frames (log : TxLog) : List Frame := log.map LoggedFrame.bytes

/-- Frames all closed. -/
def TxLog.ofClosed (frames : List Frame) : TxLog := frames.map fun bytes => ⟨bytes, true⟩

/-- The last frame is open. -/
def TxLog.isOpen (log : TxLog) : Bool := log.getLast?.any fun frame => !frame.closed

/-- Change the last frame. -/
def TxLog.mapLast (f : LoggedFrame → LoggedFrame) : TxLog → TxLog
  | [] => []
  | [last] => [f last]
  | frame :: next :: rest => frame :: TxLog.mapLast f (next :: rest)

/-- "START appends a new empty frame" (R114). -/
def TxLog.start (log : TxLog) : TxLog := log ++ [⟨[], false⟩]

/-- "WRITE(b) appends b to the last frame" (R114). -/
def TxLog.write (log : TxLog) (b : Byte) : TxLog := TxLog.mapLast (fun frame => { frame with bytes := frame.bytes ++ [b] }) log

/-- "STOP closes the last frame" (R114). -/
def TxLog.stop (log : TxLog) : TxLog := TxLog.mapLast (fun frame => { frame with closed := true }) log

/-- The events of an open frame: START and its WRITEs (R114). -/
def openFrameEvents (bytes : Frame) : List Event := startEvents ++ bytes.flatMap writeEvents

/-- The events of one transaction (R114). -/
def frameEvents (bytes : Frame) : List Event := openFrameEvents bytes ++ stopEvents

/-- The events of a list of transactions: `events(TXLOG)` of R114 where every frame is closed. -/
def framesEvents (frames : List Frame) : List Event := frames.flatMap frameEvents

/-- The events of one frame of TXLOG, without a STOP where none closed it (log 20). -/
def LoggedFrame.events (frame : LoggedFrame) : List Event :=
  openFrameEvents frame.bytes ++ if frame.closed then stopEvents else []

/-- `events(TXLOG)` of R114. -/
def TxLog.events (log : TxLog) : List Event := log.flatMap LoggedFrame.events

/-- The level a data event sets (R29). -/
def Event.dataLevel : Event → Option Bool
  | .dioL => some false
  | .dioH => some true
  | .clkL | .clkH | .dioIn | .dioOutL | .stall => none

/-- The levels of `k` data bits at the head of a list of events, and the events after them. -/
def takeBits : (k : Nat) → List Event → Option (List Bool × List Event)
  | 0, es => some ([], es)
  | k + 1, .clkL :: .stall :: d :: .stall :: .clkH :: .stall :: es =>
    match d.dataLevel, takeBits k es with
    | some b, some (bs, rest) => some (b :: bs, rest)
    | _, _ => none
  | _ + 1, _ => none

/-- The events after the acknowledgement window at the head of a list of events. -/
def takeAck : List Event → Option (List Event)
  | .clkL :: .stall :: .dioIn :: .stall :: .clkH :: .stall :: .dioOutL :: .stall :: .clkL :: .stall :: es => some es
  | _ => none

/-- The byte whose bits, least significant first, are given (R51). -/
def byteOfBits : List Bool → Byte
  | [] => 0
  | b :: bs => (byteOfBits bs <<< 1) ||| Byte.ofFlag b

/-- One WRITE at the head of a list of events: its byte, "by reading the level set by each data event" (R114). -/
def takeWrite (es : List Event) : Option (Byte × List Event) :=
  match takeBits 8 es with
  | none => none
  | some (bits, rest) => (takeAck rest).map fun r => (byteOfBits bits, r)

/-- Read primitives off a list of events into a log; `fuel` bounds their number. WRITE and STOP are read only in an open
frame; START, inside SET, SHOW and CLEAR, in any state (log 6). -/
def TxLog.read : (fuel : Nat) → TxLog → List Event → Option TxLog
  | _, log, [] => some log
  | 0, _, _ :: _ => none
  | fuel + 1, log, .dioL :: .stall :: .clkH :: .stall :: .dioH :: .stall :: rest =>
    if log.isOpen then TxLog.read fuel log.stop rest else none
  | fuel + 1, log, .dioL :: .stall :: rest => TxLog.read fuel log.start rest
  | fuel + 1, log, e :: es =>
    if log.isOpen then
      match takeWrite (e :: es) with
      | some (b, rest) => TxLog.read fuel (log.write b) rest
      | none => none
    else none

/-- TXLOG rebuilt from TRACE (R114); none for a list of events that no sequence of primitives emits. -/
def TxLog.ofTrace (es : List Event) : Option TxLog := TxLog.read es.length [] es

/-- The level the engine drives on DIO at each CLK_H of a list of events, `none` while DIO is released (R107, R112). -/
def riseLevels : Lines → List Event → List (Option Bool)
  | _, [] => []
  | l, e :: es =>
    if e = .clkH then (l.apply e).dioDriven :: riseLevels (l.apply e) es else riseLevels (l.apply e) es

/-- The two conditions a driven edge of DIO makes while CLK is high (R102, R104). -/
inductive WireCondition where
  | start | stop
  deriving DecidableEq, Repr

/-- The condition one event makes: DIO driven from high to low, or from low to high, while CLK is high before and after.
DIO_OUT_L is no driven edge: "the frame structure is defined by rule R114, not by edges" (R113). -/
def Lines.condition (l : Lines) (e : Event) : Option WireCondition :=
  if l.clkOut && (l.apply e).clkOut then
    match l.dioDriven, (l.apply e).dioDriven with
    | some true, some false => some .start
    | some false, some true => some .stop
    | _, _ => none
  else none

/-- The conditions of a list of events, in order. -/
def wireConditions : Lines → List Event → List WireCondition
  | _, [] => []
  | l, e :: es => (l.condition e).toList ++ wireConditions (l.apply e) es

/-- Every DIO_L and DIO_H of the list stands where CLK is low (R107). -/
def dataOnlyWhileClockLow : Lines → List Event → Bool
  | _, [] => true
  | l, e :: es => (e.dataLevel.isNone || !l.clkOut) && dataOnlyWhileClockLow (l.apply e) es

/-- How many STALLs a list of events holds (R116, R269). -/
def stallCount (es : List Event) : Nat := es.count .stall

/-- The least time, in microseconds, the STALLs of a list of events take: each lasts at least STALL_US (R116, R265). -/
def minMicros (c : Config) (es : List Event) : Nat := c.stallUs * stallCount es

end Sys2Proof.Machine
end

