-- ==== Sys2Proof/Safety.lean ====
section
/-! DEFINITION. What counts as a safe run, and the invariants claims are stated in. -/

namespace Sys2Proof.Machine

/-- "A claim about the block takes REFUSED = 0 at its end as a premise" (R233). -/
def State.accepted (s : State) : Prop := s.refused = false

/-- DIO is driven, as R29 requires of DIO_L and DIO_H (log 7). SET, SHOW and CLEAR ask nothing else: they run in any FRAME
and at any clock level (R235, log 6). -/
def State.driving (s : State) : Prop := s.lines.dioDir = .output

/-- The commands that send SET's three transactions (R140, R150, R177): CLEAR, SET with a count its word can have (R143),
and SHOW. -/
inductive IsDisplay : Instr → Prop
  | clear : IsDisplay .clear
  | set (count position p0 p1 p2 p3 : Byte) : count.toNat ≤ 4 → IsDisplay (.set count position p0 p1 p2 p3)
  | showNumber (number : BitVec numberWidth) (lz : Bool) (base length position : Byte) :
      IsDisplay (.showNumber number lz base length position)

/-- The public commands of R235: "CLEAR, SET, SHOW, ENCODE, the four accessors". -/
def IsPublic (i : Instr) : Prop := i ≠ .start ∧ i ≠ .stop ∧ ∀ byte, i ≠ .write byte

/-- SHOW's closed form (R178): the slots sent, slot `i` of the `L` holding digit `L - 1 - i` of the number, or the blank
fill above its top digit. The stop at n = 0 is the spec's decision D8 (log 13). -/
def closedFormSlots (c : Config) (number : BitVec numberWidth) (lz : Bool) (base length : Byte) : List Byte :=
  let b := if base = 2 ∨ base = 10 ∨ base = 16 then base.toNat else 16
  let L := max 1 (min 4 length.toNat)
  (List.range L).map fun i =>
    if i + 1 = L ∨ number.toNat ≥ b ^ (L - 1 - i) then c.segLut.toList.getD (number.toNat / b ^ (L - 1 - i) % b) 0
    else if lz then c.segLut[0] else 0x00

/-- The conditions under which START runs: FRAME = IDLE and CLK high (R100, R101), and DIO driven (R29). -/
def State.ready (s : State) : Prop := s.frame = .idle ∧ s.lines.clkOut = true ∧ s.lines.dioDir = .output

/-- The conditions under which STOP and WRITE run: FRAME = OPEN (R105, R109), and DIO driven (R29). -/
def State.inFrame (s : State) : Prop := s.frame = .opened ∧ s.lines.dioDir = .output

/-- The idle invariant of R102, with what START and WRITE leave in an open frame (R100, R108): DIO driven low. -/
def State.linesMatchFrame (s : State) : Prop :=
  match s.frame with
  | .idle => s.lines = Lines.idle
  | .opened => s.lines.dioDir = .output ∧ s.lines.dioOut = false

/-- The latches hold what the events since reset left in them (R29, R30). -/
def State.linesFollowTrace (s : State) : Prop := s.lines = Lines.idle.replay s.trace

/-- TRACE is a sequence of primitives, and FRAME is OPEN exactly when its last frame is (R31, R114). -/
def State.traceIsLog (s : State) : Prop :=
  ∃ log : TxLog, s.trace = log.events ∧ (s.frame = .opened ↔ log.isOpen = true)

/-- REFUSED is set exactly when a refusal has been raised (R233). -/
def State.refusedMarksReasons (s : State) : Prop := s.refused = true ↔ s.reasons ≠ []

/-- BRIGHTNESS is at most BRIGHT_MAX (R23, R205). -/
def State.brightnessInRange (s : State) : Prop := s.brightness ≤ s.config.brightMax

/-- The parameters are what the spec requires of them (R34, R86). -/
def State.configOk (s : State) : Prop := s.config.wf = true

/-- The invariant of the engine. -/
structure State.Inv (s : State) : Prop where
  linesMatchFrame : s.linesMatchFrame
  linesFollowTrace : s.linesFollowTrace
  traceIsLog : s.traceIsLog
  refusedMarksReasons : s.refusedMarksReasons
  brightnessInRange : s.brightnessInRange
  configOk : s.configOk

/-- What a refusal does (R9, R233): no line event, no register changed, REFUSED set. RESULT is not spoken of. -/
def State.onlyRefused (s t : State) (r : RefuseReason) : Prop :=
  t.refused = true ∧ t.reasons = s.reasons ++ [r] ∧ t.trace = s.trace ∧ t.brightness = s.brightness ∧
    t.colon = s.colon ∧ t.lines = s.lines ∧ t.frame = s.frame ∧ t.config = s.config ∧ t.host = s.host

/-- Everything of two states that a later command can act on is the same: the parameters, BRIGHTNESS, COLON, the lines
and FRAME. TRACE, RESULT and the refusal marks are read by no command (R26, R60). -/
def State.sameControls (s t : State) : Prop :=
  s.config = t.config ∧ s.brightness = t.brightness ∧ s.colon = t.colon ∧ s.lines = t.lines ∧ s.frame = t.frame

end Sys2Proof.Machine
end

