-- ==== Sys2Proof/Certificates/Slice0/Obligations.lean ====
section
/-! DEFINITION. The statements for the provers. Each docstring names the rules of spec/ it formalises. -/

open Sys2Proof Sys2Proof.Machine

/-! ### Reset and the invariant -/

/-- The state after reset, field by field (70_reset_and_hazards.md section 1, R260). The line levels and the empty TRACE
are the spec's decision D6, the parameters those of R6; the empty `reasons` and `host` are the model's (log 5, log 1). -/
def Obligations.ResetLeavesTheSpecValues : Prop :=
  State.reset.brightness = 2 ∧ State.reset.colon = false ∧ State.reset.lines.clkOut = true ∧
    State.reset.lines.dioDir = .output ∧ State.reset.lines.dioOut = true ∧ State.reset.frame = .idle ∧
    State.reset.trace = [] ∧ State.reset.result = none ∧ State.reset.refused = false ∧
    State.reset.config.segLut.toList = [0x3F, 0x06, 0x5B, 0x4F, 0x66, 0x6D, 0x7D, 0x07, 0x7F, 0x6F, 0x77, 0x7C, 0x39,
      0x5E, 0x79, 0x71] ∧
    State.reset.config.cmdAutoinc = 0x40 ∧ State.reset.config.cmdAddr = 0xC0 ∧ State.reset.config.cmdDisplay = 0x88 ∧
    State.reset.config.brightMax = 7 ∧ State.reset.config.stallUs = 50 ∧
    State.reset.reasons = [] ∧ State.reset.host = []

/-- The invariant of Safety.lean (R23, R30, R31, R34, R86, R102, R114, R233) holds after reset. -/
def Obligations.ResetMeetsTheInvariant : Prop := State.reset.Inv

/-- Every step keeps the invariant of Safety.lean: the idle invariant of R102 and the frame's lines, the latches follow
TRACE (R29, R30), TRACE is a sequence of primitives with FRAME its bookkeeping (R31, R114), REFUSED marks the refusals
(R233), BRIGHTNESS is at most BRIGHT_MAX (R23), the parameters stay what R34 and R86 require. The mark on TXLOG's frames and
the list of reasons are the model's (log 20, log 5). -/
def Obligations.StepKeepsTheInvariant : Prop := ∀ s t : State, s.Inv → step s = .next t → t.Inv

/-- The hardware raises no exception (R230): from a state that meets the invariant, whatever the host has issued, a step
answers a next state that meets it again, never a fault and never a refusal to go on. The fault of log 7 is thus
unreachable. -/
def Obligations.StepNeverStopsUnderTheInvariant : Prop := ∀ s : State, s.Inv → ∃ t, step s = .next t ∧ t.Inv

/-- `StartClockLow` is unreachable from the reset line state (40_protocol.md section 1, an inference of R101): under the
invariant no step adds that reason. -/
def Obligations.ClockLowRefusalIsUnreachable : Prop :=
  ∀ s t : State, s.Inv → step s = .next t → t.reasons ≠ s.reasons ++ [.startClockLow]

/-! ### Decode and encode -/

/-- Decode and encode agree (30_encoding.md, R73 to R88): every well-formed command is read back from its word, with every
operand. -/
def Obligations.DecodeReadsBackEveryEncodedCommand : Prop :=
  ∀ i : Instr, i.wellFormed = true → decodeWord (encode i) = .command i

/-- Each legal word has one meaning and one spelling (30_encoding.md, R71, R88): a word that decodes is the word its command
encodes to, and the command is well formed. -/
def Obligations.DecodedWordIsTheOnlySpelling : Prop :=
  ∀ (w : CommandWord) (i : Instr), decodeWord w = .command i → encode i = w ∧ i.wellFormed = true

/-- The decoder accepts exactly the words of opcode_table.json, SET with its count limit (R84, R143): it reads a command from
a word just when some row holds of it and, in SET's row, `W[15:8] <= 4`; and the row is the row of the command read. -/
def Obligations.DecoderAgreesWithTheOpcodeTable : Prop :=
  (∀ w : CommandWord, (∃ i, decodeWord w = .command i) ↔
    (∃ r ∈ opcodeRows, r.holds w = true) ∧ (setRow.holds w = true → (wordField w 8 8).toNat ≤ 4)) ∧
  (∀ (w : CommandWord) (i : Instr), decodeWord w = .command i → i.row.holds w = true)

/-- A command word serialised as eight bytes, `W[7:0]` first, is read back whatever follows it (20_memory.md section 2,
R52, the spec's decision D20). -/
def Obligations.SerialisedWordIsReadBack : Prop :=
  ∀ (w : CommandWord) (rest : List Byte), decodeBytes (bytesOfWord w ++ rest) = (decodeWord w, rest)

/-- Words written out from the encodings of R73 to R83 (and 95_test_vectors.md 2.5) decode to the commands they spell, and
words with a reserved opcode, a reserved bit or a count of 5 decode to none. -/
def Obligations.SpecWordsDecode : Prop :=
  decodeWord 0x0000000000000001 = .command .clear ∧
    decodeWord 0x664F5B0600000402 = .command (.set 4 0 0x06 0x5B 0x4F 0x66) ∧
    decodeWord 0x04D20000040A0003 = .command (.showNumber 1234 false 10 4 0) ∧
    decodeWord 0x0000000000001B04 = .command (.encode 0x1B) ∧
    decodeWord 0x0000000000000706 = .command (.brightnessSet 7) ∧
    decodeWord 0x0000000000000108 = .command (.colonSet true) ∧
    decodeWord 0x000000000000400B = .command (.write 0x40) ∧
    decodeWord 0x0000000000000000 = .illegal .reservedOpcode ∧
    decodeWord 0x0000000000000203 = .illegal .reservedBits ∧
    decodeWord 0x0000000000000502 = .illegal .countTooLarge

/-- The assembler's examples and pseudo-commands (30_encoding.md section 4, R90 and R91, the spec's decision D29). -/
def Obligations.AssemblyExamplesEncode : Prop :=
  assembleWord .showNumber [1234, 0, 10, 4, 0] = some 0x04D20000040A0003 ∧
    assembleWord .set [2, 1, 0x01, 0x02] = some 0x0000020100010202 ∧
    assembleWord .encode [0x1B] = some 0x0000000000001B04 ∧
    assembleWord .write [0x40] = some 0x000000000000400B ∧
    (∀ p0 p1 p2 p3 : Nat, assemble .set4 [p0, p1, p2, p3] = assemble .set [4, 0, p0, p1, p2, p3]) ∧
    (∀ n : Nat, assemble .showD [n] = assemble .showNumber [n, 0, 10, 4, 0]) ∧
    (∀ n : Nat, assemble .showZ [n] = assemble .showNumber [n, 1, 10, 4, 0]) ∧
    assemble (.brightnessLevel .dim) [] = assemble .brightnessSet [0] ∧
    assemble (.brightnessLevel .normal) [] = assemble .brightnessSet [2] ∧
    assemble (.brightnessLevel .bright) [] = assemble .brightnessSet [3]

/-! ### The command interface -/

/-- A step runs the decoded command (R10, R70): the oldest issued word is taken and its command executed to completion. -/
def Obligations.StepRunsTheDecodedCommand : Prop :=
  ∀ (s : State) (w : CommandWord) (rest : List HostIssue) (i : Instr),
    s.host = .command w :: rest → decodeWord w = .command i → step s = exec i { s with host := rest }

/-- An illegal word emits no event and changes no state but the refusal marks (30_encoding.md R84, decisions D3 and D13). That
RESULT is kept and where the reason stands are the model's (log 4, log 5). -/
def Obligations.IllegalWordOnlyMarksRefused : Prop :=
  ∀ (s : State) (w : CommandWord) (rest : List HostIssue) (why : DecodeReject),
    s.host = .command w :: rest → decodeWord w = .illegal why →
      step s = .next { s with host := rest, refused := true, reasons := s.reasons ++ [.illegalCommand] }

/-- A command issued while another executes is refused with `SecondHost`, whatever its word: that check comes before decode
(60_exceptions.md R235, R236, decisions D5 and D25). The tagged issue is the model's (log 2), as are the kept RESULT and
the place of the reason (log 4, log 5). -/
def Obligations.OverlappedIssueIsRefusedBeforeDecode : Prop :=
  ∀ (s : State) (w : CommandWord) (rest : List HostIssue), s.host = .overlapped w :: rest →
    step s = .next { s with host := rest, refused := true, reasons := s.reasons ++ [.secondHost] }

/-- Between commands the engine waits: with no command issued a step changes nothing (60_exceptions.md R242, decision D21; that
such a step exists is the model's choice, log 1). -/
def Obligations.StepWithNoCommandChangesNothing : Prop := ∀ s : State, s.host = [] → step s = .next s

/-! ### The protocol primitives -/

/-- START (40_protocol.md section 1, R100): from an idle frame with CLK high the two events, DIO low, FRAME open, RESULT none;
and both refusals (R101, decision D5). That the reason of a refusal stands in `reasons` is the model's (log 5). -/
def Obligations.StartOpensAFrame : Prop :=
  ∀ s : State,
    (s.frame = .opened → ∃ t, exec .start s = .next t ∧ s.onlyRefused t .startInFrame) ∧
    (s.frame = .idle → s.lines.clkOut = false → ∃ t, exec .start s = .next t ∧ s.onlyRefused t .startClockLow) ∧
    (s.ready → exec .start s = .next { s with
        lines := { s.lines with dioOut := false }, frame := .opened, result := none,
        trace := s.trace ++ [.dioL, .stall] })

/-- STOP (40_protocol.md section 2, R103): from an open frame the six events, both lines high, FRAME idle, RESULT none; and its
refusal (R105, decision D5). That the reason of a refusal stands in `reasons` is the model's (log 5). -/
def Obligations.StopClosesTheFrame : Prop :=
  ∀ s : State,
    (s.frame = .idle → ∃ t, exec .stop s = .next t ∧ s.onlyRefused t .stopOutsideFrame) ∧
    (s.inFrame → exec .stop s = .next { s with
        lines := { s.lines with clkOut := true, dioOut := true }, frame := .idle, result := none,
        trace := s.trace ++ [.dioL, .stall, .clkH, .stall, .dioH, .stall] })

/-- WRITE (40_protocol.md section 3, R106), bit 0 first (R51): in an open frame the 58 events, CLK and DIO low, DIO driven,
FRAME open, RESULT none; and its refusal (R109, decision D5). That the reason of a refusal stands in `reasons` is the
model's (log 5). -/
def Obligations.WriteSendsTheByteBitZeroFirst : Prop :=
  ∀ (byte : Byte) (s : State),
    (s.frame = .idle → ∃ t, exec (.write byte) s = .next t ∧ s.onlyRefused t .writeOutsideFrame) ∧
    (s.inFrame → exec (.write byte) s = .next { s with
        lines := ⟨false, .output, false⟩, result := none,
        trace := s.trace ++
          (([0, 1, 2, 3, 4, 5, 6, 7].flatMap fun i =>
            [.clkL, .stall, if byte.getLsbD i then .dioH else .dioL, .stall, .clkH, .stall]) ++
          [.clkL, .stall, .dioIn, .stall, .clkH, .stall, .dioOutL, .stall, .clkL, .stall]) })

/-- What the wire shows of a WRITE (40_protocol.md section 3, an inference of R107, and R112): at its first eight CLK_H the
engine drives bits 0 to 7 on DIO, at the ninth it drives nothing; every data event stands where CLK is low. -/
def Obligations.WriteHoldsEachBitAtItsClockRise : Prop :=
  ∀ (byte : Byte) (l : Lines), l.dioDir = .output →
    riseLevels l (writeEvents byte) = ((List.range 8).map fun i => some (byte.getLsbD i)) ++ [none] ∧
      dataOnlyWhileClockLow l (writeEvents byte) = true

/-- The counts of one WRITE (40_protocol.md section 3, an inference of R110). -/
def Obligations.WriteEventCounts : Prop :=
  ∀ byte : Byte,
    (writeEvents byte).length = 58 ∧ (writeEvents byte).count .stall = 29 ∧ (writeEvents byte).count .clkL = 10 ∧
      (writeEvents byte).count .clkH = 9 ∧ (writeEvents byte).count .dioIn = 1 ∧
      (writeEvents byte).count .dioOutL = 1 ∧
      (writeEvents byte).count .dioH = (List.range 8).countP (fun i => byte.getLsbD i) ∧
      (writeEvents byte).count .dioL + (writeEvents byte).count .dioH = 8

/-- The counts of a frame of n bytes (40_protocol.md section 5, an inference of R115, and 70_reset_and_hazards.md R269): events,
STALLs, and the least time they take. -/
def Obligations.FrameEventCounts : Prop :=
  ∀ (c : Config) (bytes : Frame),
    (frameEvents bytes).length = 2 + 58 * bytes.length + 6 ∧ stallCount (frameEvents bytes) = 29 * bytes.length + 4 ∧
      minMicros c (frameEvents bytes) = c.stallUs * (29 * bytes.length + 4)

/-- From idle lines a frame makes one START condition and then one STOP condition on the driven wire, whatever bytes it
carries (40_protocol.md, inferences of R102, R104 and R107; DIO_OUT_L is no driven edge, R113). -/
def Obligations.FrameMakesOneStartAndOneStop : Prop :=
  ∀ bytes : Frame, wireConditions Lines.idle (frameEvents bytes) = [.start, .stop]

/-- TRACE and TXLOG determine each other (40_protocol.md section 5, R114, decision D27): reading a list of events gives a log
exactly when the list is that log's events. That a log marks whether STOP has closed each frame, and that an unclosed frame
has R114's events without the STOP, are the model's choice (log 20). -/
def Obligations.TxLogAndTraceDetermineEachOther : Prop :=
  ∀ (es : List Event) (log : TxLog), TxLog.ofTrace es = some log ↔ es = log.events

/-- The primitives move TXLOG as R114 says (40_protocol.md section 5, decision D27), where TRACE reads as a log whose last
frame is open exactly when FRAME is. The mark that says whether STOP has closed a frame is the model's choice (log 20). -/
def Obligations.PrimitivesMoveTheLog : Prop :=
  ∀ (s t : State) (log : TxLog) (byte : Byte), TxLog.ofTrace s.trace = some log →
    (s.frame = .opened ↔ log.isOpen = true) →
      (s.ready → exec .start s = .next t → TxLog.ofTrace t.trace = some log.start) ∧
      (s.inFrame → exec (.write byte) s = .next t → TxLog.ofTrace t.trace = some (log.write byte)) ∧
      (s.inFrame → exec .stop s = .next t → TxLog.ofTrace t.trace = some log.stop)

/-! ### SET and CLEAR -/

/-- SET's whole next state (41_set_clear.md section 1, R140 to R142): while DIO is driven (log 7), in any FRAME and at any
clock level (R143 and R235; log 6), SET completes and sends three frames: the auto-increment byte; the address byte with
`position & 3` and the first `count` patterns, each with COLON_BIT while COLON = 1; the display byte with BRIGHTNESS. The
lines and FRAME end idle, RESULT is none, all else is kept: nothing is refused. -/
def Obligations.SetSendsItsThreeFrames : Prop :=
  ∀ (s : State) (count position p0 p1 p2 p3 : Byte), count.toNat ≤ 4 → s.driving →
    exec (.set count position p0 p1 p2 p3) s = .next { s with
      lines := Lines.idle, frame := .idle, result := none,
      trace := s.trace ++ framesEvents
        [[s.config.cmdAutoinc],
         (s.config.cmdAddr ||| (position &&& 0x3)) ::
           ([p0, p1, p2, p3].take count.toNat).map (fun p => p ||| (if s.colon then 0x80 else 0x00)),
         [s.config.cmdDisplay ||| (s.brightness &&& 0x7).setWidth 8]] }

/-- SET at the level of TXLOG (41_set_clear.md section 1, an inference of R145): three frames are added, closed, and the
frames before them stay as they were, one that was open unclosed (log 6, log 20). -/
def Obligations.SetAddsThreeClosedFrames : Prop :=
  ∀ (s t : State) (log : TxLog) (count position p0 p1 p2 p3 : Byte), count.toNat ≤ 4 → s.driving →
    TxLog.ofTrace s.trace = some log → exec (.set count position p0 p1 p2 p3) s = .next t →
      ∃ data : List Byte, data.length = count.toNat ∧
        (∀ k, k < count.toNat → data[k]? = ([p0, p1, p2, p3][k]?).map (fun p => if s.colon then p ||| 0x80 else p)) ∧
        TxLog.ofTrace t.trace = some (log ++ TxLog.ofClosed
          [[s.config.cmdAutoinc], (s.config.cmdAddr ||| (position &&& 3)) :: data,
           [s.config.cmdDisplay ||| s.brightness.setWidth 8]])

/-- A SET term with a count above 4 is refused as its word is at decode (41_set_clear.md R143, decision D13). That the term
itself is refused is the model's choice (log 19), as are the kept RESULT (log 4) and the place of the reason (log 5). -/
def Obligations.SetCountAboveFourIsRefused : Prop :=
  ∀ (s : State) (count position p0 p1 p2 p3 : Byte), count.toNat > 4 →
    exec (.set count position p0 p1 p2 p3) s =
      .next { s with refused := true, reasons := s.reasons ++ [.illegalCommand] }

/-- CLEAR's whole next state (41_set_clear.md section 2, R150): while DIO is driven (log 7), in any FRAME and at any clock
level (log 6), CLEAR completes and sends four zero bytes at position 0, never the colon bit. The lines and FRAME end idle,
RESULT is none, all else is kept, COLON among it: nothing is refused. -/
def Obligations.ClearSendsZerosAndKeepsColon : Prop :=
  ∀ s : State, s.driving →
    exec .clear s = .next { s with
      lines := Lines.idle, frame := .idle, result := none,
      trace := s.trace ++ framesEvents
        [[s.config.cmdAutoinc], [s.config.cmdAddr ||| 0x00, 0x00, 0x00, 0x00, 0x00],
         [s.config.cmdDisplay ||| (s.brightness &&& 0x7).setWidth 8]] }

/-- The frame of SET, SHOW and CLEAR: while DIO is driven (log 7), in any FRAME and at any clock level (log 6), they
complete, send three frames of which the first and the last are the same for all three, leave the lines idle and FRAME
idle (41_set_clear.md, an inference of R140), RESULT none, and change nothing else. -/
def Obligations.SetShowClearChangeOnlyTraceAndLines : Prop :=
  ∀ (s : State) (i : Instr), s.driving → IsDisplay i →
    ∃ bytes : List Byte, exec i s = .next { s with
      lines := Lines.idle, frame := .idle, result := none,
      trace := s.trace ++ framesEvents
        [[s.config.cmdAutoinc], bytes, [s.config.cmdDisplay ||| (s.brightness &&& 0x7).setWidth 8]] }

/-- The counts of SET, SHOW and CLEAR (70_reset_and_hazards.md section 3, R269, inferences of R145, R152 and R179). While DIO
is driven (log 7), in any FRAME and at any clock level (log 6), CLEAR, SET and SHOW add these events. -/
def Obligations.SetShowClearEventCounts : Prop :=
  ∀ (s t : State), s.driving →
    (∀ count position p0 p1 p2 p3 : Byte, count.toNat ≤ 4 → exec (.set count position p0 p1 p2 p3) s = .next t →
      t.trace.length = s.trace.length + (198 + 58 * count.toNat) ∧
        stallCount t.trace = stallCount s.trace + (99 + 29 * count.toNat)) ∧
    (∀ number lz (base length position : Byte), exec (.showNumber number lz base length position) s = .next t →
      t.trace.length = s.trace.length + (198 + 58 * (max 1 (min 4 length.toNat))) ∧
        stallCount t.trace = stallCount s.trace + (99 + 29 * (max 1 (min 4 length.toNat)))) ∧
    (exec .clear s = .next t →
      t.trace.length = s.trace.length + 430 ∧ stallCount t.trace = stallCount s.trace + 215)

/-! ### SHOW -/

/-- SHOW's clamps (R171): SHOW with any base, position and length does what SHOW does with 16 for a base other than 2, 10
and 16, with 0 for a position above 3, with 1 for length 0 and 4 for a length above 4; each on its own. -/
def Obligations.ShowClampsEachOperand : Prop :=
  ∀ (s : State) (number : BitVec numberWidth) (lz : Bool) (base length position : Byte),
    exec (.showNumber number lz base length position) s =
      exec (.showNumber number lz
        (if base = 2 ∨ base = 10 ∨ base = 16 then base else 16)
        (if length = 0 then 1 else if length.toNat ≤ 4 then length else 4)
        (if position.toNat ≤ 3 then position else 0)) s

/-- SHOW's zero case (R172): slot `length - 1` gets SEG_LUT[0], every other slot stays BLANK. -/
def Obligations.ShowOfZeroFillsTheLastSlot : Prop :=
  ∀ (c : Config) (base length : Byte) (i : Nat) (h : i < 4), 1 ≤ length.toNat → length.toNat ≤ 4 →
    (convert c 0 base length)[i] = if i + 1 = length.toNat then some c.segLut[0] else none

/-- Blank resolution (R176): over all four slots, a BLANK becomes SEG_LUT[0] with leading zeros and 0x00 without. -/
def Obligations.BlanksResolveOverAllSlots : Prop :=
  ∀ (c : Config) (lz : Bool) (buf : Buf) (i : Nat) (h : i < 4),
    (resolveBlanks c lz buf)[i] =
      match buf[i] with
      | some pattern => pattern
      | none => if lz then c.segLut[0] else 0x00

/-- SHOW's whole next state (42_show.md, inferences of R178 and R179; the stop at n = 0 is the spec's decision D8, log 13):
while DIO is driven (log 7), in any FRAME and at any clock level (log 6), SHOW completes for every operand and sends three
frames, the slots of the closed form as data, with the colon bit while COLON = 1. The lines and FRAME end idle, RESULT is
none, all else is kept: nothing is refused. -/
def Obligations.ShowSendsTheDigitsOfTheNumber : Prop :=
  ∀ (s : State) (number : BitVec numberWidth) (lz : Bool) (base length position : Byte), s.driving →
    exec (.showNumber number lz base length position) s = .next { s with
      lines := Lines.idle, frame := .idle, result := none,
      trace := s.trace ++ framesEvents
        [[s.config.cmdAutoinc],
         (s.config.cmdAddr ||| (if position.toNat ≤ 3 then position else 0)) ::
           (closedFormSlots s.config number lz base length).map (fun p => p ||| (if s.colon then 0x80 else 0x00)),
         [s.config.cmdDisplay ||| (s.brightness &&& 0x7).setWidth 8]] }

/-- Truncation from the most significant side (42_show.md, R175): with leading zeros shown, SHOW sends of a number only its
low digits, as many as the clamped length. -/
def Obligations.ShowDropsDigitsFromTheTop : Prop :=
  ∀ (s : State) (number : BitVec numberWidth) (base length position : Byte),
    base = 2 ∨ base = 10 ∨ base = 16 → 1 ≤ length.toNat → length.toNat ≤ 4 →
      exec (.showNumber number true base length position) s =
        exec (.showNumber (BitVec.ofNat 16 (number.toNat % base.toNat ^ length.toNat)) true base length position) s

/-! ### Accessors -/

/-- ENCODE (R200): RESULT is SEG_LUT[digit & 0xF]; nothing else changes. -/
def Obligations.EncodeReturnsTheMaskedEntry : Prop :=
  ∀ (s : State) (digit : Byte), exec (.encode digit) s =
    .next { s with result := some (s.config.segLut.toList.getD (digit &&& 0xF).toNat 0) }

/-- ENCODE's corner cases (43_accessors.md section 1, R201, with the inference of R34): digits alias modulo 16, and where the
table has COLON_BIT clear the result never has bit 7 set, whatever COLON holds. -/
def Obligations.EncodeAliasesAndNeverSetsTheColonBit : Prop :=
  ∀ (s : State) (digit : Byte),
    exec (.encode digit) s = exec (.encode (BitVec.ofNat 8 (digit.toNat % 16))) s ∧
      (s.config.wf = true → ∃ v : Byte, exec (.encode digit) s = .next { s with result := some v } ∧ v.getLsbD 7 = false)

/-- BRIGHTNESS_GET (R203). -/
def Obligations.BrightnessGetReturnsBrightness : Prop :=
  ∀ s : State, exec .brightnessGet s = .next { s with result := some (s.brightness.setWidth 8) }

/-- BRIGHTNESS_SET (R205): the previous value is returned in both branches; the register is written only with a value up to
BRIGHT_MAX. -/
def Obligations.BrightnessSetReturnsThePreviousValue : Prop :=
  ∀ (s : State) (v : Byte),
    (v.toNat ≤ s.config.brightMax.toNat → exec (.brightnessSet v) s =
      .next { s with brightness := BitVec.ofNat 3 v.toNat, result := some (s.brightness.setWidth 8) }) ∧
    (v.toNat > s.config.brightMax.toNat → exec (.brightnessSet v) s =
      .next { s with result := some (s.brightness.setWidth 8) })

/-- COLON_GET (R208), with its worked example after reset. -/
def Obligations.ColonGetReturnsColon : Prop :=
  (∀ s : State, exec .colonGet s = .next { s with result := some (if s.colon then 0x01 else 0x00) }) ∧
    exec .colonGet State.reset = .next { State.reset with result := some 0x00 }

/-- COLON_SET (R209): COLON is always written and the previous flag returned. -/
def Obligations.ColonSetReturnsThePreviousFlag : Prop :=
  ∀ (s : State) (flag : Bool), exec (.colonSet flag) s =
    .next { s with colon := flag, result := some (if s.colon then 0x01 else 0x00) }

/-- A command sees every effect of the commands before it (70_reset_and_hazards.md section 2, an inference of R268; R206,
R210). Neither setter emits an event. A brightness set is the brightness read next, and the one the next SET, SHOW or CLEAR
sends; a colon set is the colon read next, and its bit is in every data byte of the next SET or SHOW, or in none. SET and
SHOW run while DIO is driven (log 7), in any FRAME and at any clock level (log 6). The blank slots in SHOW's closed
form rest on the stop at n = 0, the spec's decision D8 (log 13). -/
def Obligations.CommandsSeeEarlierEffects : Prop :=
  (∀ (s t : State) (v : Byte), exec (.brightnessSet v) s = .next t →
    t.trace = s.trace ∧
    (v.toNat ≤ s.config.brightMax.toNat →
      exec .brightnessGet t = .next { t with result := some v } ∧
      (∀ count position p0 p1 p2 p3 : Byte, count.toNat ≤ 4 → s.driving →
        ∃ u, exec (.set count position p0 p1 p2 p3) t = .next u ∧ u.trace = s.trace ++ framesEvents
          [[s.config.cmdAutoinc],
           (s.config.cmdAddr ||| (position &&& 0x3)) ::
             ([p0, p1, p2, p3].take count.toNat).map (fun p => p ||| (if s.colon then 0x80 else 0x00)),
           [s.config.cmdDisplay ||| v]]) ∧
      (∀ i : Instr, IsDisplay i → s.driving →
        ∃ u bytes, exec i t = .next u ∧ u.trace = s.trace ++ framesEvents
          [[s.config.cmdAutoinc], bytes, [s.config.cmdDisplay ||| v]]))) ∧
  (∀ (s t : State) (flag : Bool), exec (.colonSet flag) s = .next t →
    t.trace = s.trace ∧ exec .colonGet t = .next { t with result := some (if flag then 1 else 0) } ∧
    (∀ count position p0 p1 p2 p3 : Byte, count.toNat ≤ 4 → s.driving →
      ∃ u, exec (.set count position p0 p1 p2 p3) t = .next u ∧ u.trace = s.trace ++ framesEvents
        [[s.config.cmdAutoinc],
         (s.config.cmdAddr ||| (position &&& 0x3)) ::
           ([p0, p1, p2, p3].take count.toNat).map (fun p => p ||| (if flag then 0x80 else 0x00)),
         [s.config.cmdDisplay ||| (s.brightness &&& 0x7).setWidth 8]]) ∧
    (∀ (number : BitVec numberWidth) (lz : Bool) (base length position : Byte), s.driving →
      ∃ u, exec (.showNumber number lz base length position) t = .next u ∧ u.trace = s.trace ++ framesEvents
        [[s.config.cmdAutoinc],
         (s.config.cmdAddr ||| (if position.toNat ≤ 3 then position else 0)) ::
           (closedFormSlots s.config number lz base length).map (fun p => p ||| (if flag then 0x80 else 0x00)),
         [s.config.cmdDisplay ||| (s.brightness &&& 0x7).setWidth 8]]))

/-! ### Refusals and stops -/

/-- The refused primitives change nothing but the refusal marks, and START reports `StartInFrame` before `StartClockLow`
(60_exceptions.md R233 and R235, decision D5). That RESULT is kept and where the reason stands are the model's (log 4,
log 5). -/
def Obligations.RefusedCommandsChangeOnlyTheMarks : Prop :=
  ∀ s : State,
    (s.frame = .opened → exec .start s = .next { s with refused := true, reasons := s.reasons ++ [.startInFrame] }) ∧
    (s.frame = .idle → s.lines.clkOut = false →
      exec .start s = .next { s with refused := true, reasons := s.reasons ++ [.startClockLow] }) ∧
    (s.frame = .idle → exec .stop s = .next { s with refused := true, reasons := s.reasons ++ [.stopOutsideFrame] }) ∧
    (s.frame = .idle → ∀ byte,
      exec (.write byte) s = .next { s with refused := true, reasons := s.reasons ++ [.writeOutsideFrame] })

/-- "Decoded public commands (CLEAR, SET, SHOW, ENCODE, the four accessors) are never refused after decode"
(60_exceptions.md R235, decision D5): a well-formed public command adds no refusal in any state, in an open frame and at a
low clock too (log 6), and completes while DIO is driven (log 7). -/
def Obligations.PublicCommandsAreNeverRefused : Prop :=
  ∀ (i : Instr) (s : State), IsPublic i → i.wellFormed = true →
    (∀ t, exec i s = .next t → t.refused = s.refused ∧ t.reasons = s.reasons) ∧ (s.driving → ∃ t, exec i s = .next t)

/-- Where the fault of log 7 stands (10_state.md section 3, R29: "requires DIO_DIR = OUT"; that the model stops there is its
own choice): a command not refused stops exactly when it would drive DIO while DIO_DIR = IN. -/
def Obligations.DrivingReleasedDioStops : Prop :=
  ∀ (s : State), s.lines.dioDir = .input →
    (∀ i, IsDisplay i → exec i s = .fault .dioDrivenWhileReleased) ∧
    (s.frame = .idle → s.lines.clkOut = true → exec .start s = .fault .dioDrivenWhileReleased) ∧
    (s.frame = .opened →
      exec .stop s = .fault .dioDrivenWhileReleased ∧ (∀ byte, exec (.write byte) s = .fault .dioDrivenWhileReleased))

/-- The mark is sticky: "No later command clears the mark" (60_exceptions.md R233), so a state after a step can be accepted
only if the state before was. "A command gets at most one refusal" (R235, decision D5): the reasons grow by at most one
and none is taken back (log 5). -/
def Obligations.RefusedIsSticky : Prop :=
  ∀ s t : State, step s = .next t →
    (t.accepted → s.accepted) ∧ (t.reasons = s.reasons ∨ ∃ r, t.reasons = s.reasons ++ [r])

/-! ### Whole-machine rules -/

/-- TRACE only grows: a command appends its events and never removes one (10_state.md section 3, R30, decisions D22 and D27). -/
def Obligations.TraceIsAppendOnly : Prop := ∀ s t : State, step s = .next t → s.trace <+: t.trace

/-- Who writes what (10_state.md sections 2 and 4: R21, R23, R24, R32): only BRIGHTNESS_SET changes BRIGHTNESS, only COLON_SET
changes COLON, nothing changes SEG_LUT or another parameter, and no command takes or adds a host issue. -/
def Obligations.OnlyTheSettersWriteRegisters : Prop :=
  ∀ (i : Instr) (s t : State), exec i s = .next t →
    t.config = s.config ∧ t.host = s.host ∧
      (t.brightness ≠ s.brightness → ∃ v : Byte, i = .brightnessSet v ∧ v.toNat ≤ s.config.brightMax.toNat) ∧
      (t.colon ≠ s.colon → i = .colonSet t.colon)

/-- Every public command leaves each frame it opened closed (10_state.md section 3 and 40_protocol.md section 5, inferences of
R31 and R114): SET, SHOW and CLEAR end with FRAME idle and the lines idle, whatever they found (log 6); ENCODE and the
accessors touch neither, nor TRACE. -/
def Obligations.PublicCommandsLeaveTheFrameClosed : Prop :=
  ∀ (i : Instr) (s t : State), IsPublic i → exec i s = .next t →
    (IsDisplay i → t.frame = .idle ∧ t.lines = Lines.idle) ∧
      (¬ IsDisplay i → t.frame = s.frame ∧ t.lines = s.lines ∧ t.trace = s.trace)

/-- RESULT after a command that was not refused (10_state.md R26, decision D19): a value for the five accessors, none for every
other command. -/
def Obligations.OnlyAccessorsGiveAResult : Prop :=
  ∀ (i : Instr) (s t : State), exec i s = .next t → t.reasons = s.reasons →
    (t.result.isSome = true ↔ i = .brightnessGet ∨ i = .colonGet ∨ (∃ d, i = .encode d) ∨ (∃ v, i = .brightnessSet v) ∨
      (∃ f, i = .colonSet f))

/-- What a later command can depend on (20_memory.md R60, 10_state.md R26): from two states with the same parameters,
BRIGHTNESS, COLON, lines and FRAME, a command emits the same events and leaves those the same again, and both runs are
refused alike or answer the same RESULT; TRACE, RESULT and the refusal marks of the past play no part. -/
def Obligations.CommandsReadOnlyTheControls : Prop :=
  ∀ (i : Instr) (s t s' : State), s.sameControls t → exec i s = .next s' →
    ∃ t', exec i t = .next t' ∧ s'.sameControls t' ∧
      (∃ es, s'.trace = s.trace ++ es ∧ t'.trace = t.trace ++ es) ∧
      ((∃ r, s'.reasons = s.reasons ++ [r] ∧ t'.reasons = t.reasons ++ [r]) ∨
        (s'.reasons = s.reasons ∧ t'.reasons = t.reasons ∧ s'.result = t'.result))
end

