-- ==== Sys2Proof/Laws/Decode.lean ====
section
/-! SUPPORT. Fields of a command word: reading one, splitting one, and what an opcode row says of one. -/

namespace Sys2Proof

theorem wordField_getLsbD (w : CommandWord) (lo len i : Nat) (h : i < len) :
    (wordField w lo len).getLsbD i = w.getLsbD (lo + i) := by
  simp [wordField, h]

/-- The whole word is its field of 64 bits. -/
theorem wordField_all (w : CommandWord) : wordField w 0 64 = w := by
  apply BitVec.eq_of_getLsbD_eq
  intro i hi
  simp [wordField_getLsbD w 0 64 i hi]

/-- A field is its high part above its low part. -/
theorem wordField_split (w : CommandWord) (lo a b : Nat) :
    wordField w lo (b + a) = wordField w (lo + a) b ++ wordField w lo a := by
  apply BitVec.eq_of_getLsbD_eq
  intro i hi
  rw [wordField_getLsbD _ _ _ _ hi, BitVec.getLsbD_append]
  by_cases h : i < a
  · rw [if_pos h, wordField_getLsbD _ _ _ _ h]
  · rw [if_neg h, wordField_getLsbD _ _ _ _ (by omega), show lo + a + (i - a) = lo + i by omega]

/-- A flag byte whose bits above bit 0 are zero is the flag. -/
theorem wordField_flag (w : CommandWord) (h : wordField w 9 7 = 0) : wordField w 8 8 = Byte.ofFlag (wordFlag w 8) := by
  have hb : wordField w 8 1 = BitVec.ofBool (wordFlag w 8) := by
    apply BitVec.eq_of_getLsbD_eq
    intro i hi
    obtain rfl : i = 0 := by omega
    simp [wordField, wordFlag]
  rw [show wordField w 8 8 = wordField w 9 7 ++ wordField w 8 1 from wordField_split w 8 1 7, h, hb]
  cases wordFlag w 8 <;> rfl

/-- Where a row's mask covers a field whole, a word of the row has the pattern's field. -/
theorem wordField_of_row {w m p : CommandWord} (lo len : Nat) (h : w &&& m = p)
    (hm : wordField m lo len = BitVec.allOnes len) : wordField w lo len = wordField p lo len := by
  apply BitVec.eq_of_getLsbD_eq
  intro i hi
  have hb := wordField_getLsbD m lo len i hi
  rw [hm, BitVec.getLsbD_allOnes, decide_eq_true hi] at hb
  rw [wordField_getLsbD _ _ _ _ hi, wordField_getLsbD _ _ _ _ hi, ← h]
  simp [← hb]

theorem Decoded.ifReservedZero_command {zero : Bool} {i j : Instr} (h : Decoded.ifReservedZero zero i = .command j) :
    zero = true ∧ i = j := by
  cases zero <;> simp_all [Decoded.ifReservedZero]

end Sys2Proof
end

