-- ==== Sys2Proof/Laws/State.lean ====
section
/-! SUPPORT. One lemma per field per update of State. -/

namespace Sys2Proof.Machine

variable (s : State)

@[simp] theorem State.withResult_config (v : Option Byte) : (s.withResult v).config = s.config := rfl
@[simp] theorem State.withResult_brightness (v : Option Byte) : (s.withResult v).brightness = s.brightness := rfl
@[simp] theorem State.withResult_colon (v : Option Byte) : (s.withResult v).colon = s.colon := rfl
@[simp] theorem State.withResult_lines (v : Option Byte) : (s.withResult v).lines = s.lines := rfl
@[simp] theorem State.withResult_frame (v : Option Byte) : (s.withResult v).frame = s.frame := rfl
@[simp] theorem State.withResult_trace (v : Option Byte) : (s.withResult v).trace = s.trace := rfl
@[simp] theorem State.withResult_result (v : Option Byte) : (s.withResult v).result = v := rfl
@[simp] theorem State.withResult_refused (v : Option Byte) : (s.withResult v).refused = s.refused := rfl
@[simp] theorem State.withResult_reasons (v : Option Byte) : (s.withResult v).reasons = s.reasons := rfl
@[simp] theorem State.withResult_host (v : Option Byte) : (s.withResult v).host = s.host := rfl

@[simp] theorem State.withBrightness_config (v : BitVec 3) : (s.withBrightness v).config = s.config := rfl
@[simp] theorem State.withBrightness_brightness (v : BitVec 3) : (s.withBrightness v).brightness = v := rfl
@[simp] theorem State.withBrightness_colon (v : BitVec 3) : (s.withBrightness v).colon = s.colon := rfl
@[simp] theorem State.withBrightness_lines (v : BitVec 3) : (s.withBrightness v).lines = s.lines := rfl
@[simp] theorem State.withBrightness_frame (v : BitVec 3) : (s.withBrightness v).frame = s.frame := rfl
@[simp] theorem State.withBrightness_trace (v : BitVec 3) : (s.withBrightness v).trace = s.trace := rfl
@[simp] theorem State.withBrightness_result (v : BitVec 3) : (s.withBrightness v).result = s.result := rfl
@[simp] theorem State.withBrightness_refused (v : BitVec 3) : (s.withBrightness v).refused = s.refused := rfl
@[simp] theorem State.withBrightness_reasons (v : BitVec 3) : (s.withBrightness v).reasons = s.reasons := rfl
@[simp] theorem State.withBrightness_host (v : BitVec 3) : (s.withBrightness v).host = s.host := rfl

@[simp] theorem State.withColon_config (v : Bool) : (s.withColon v).config = s.config := rfl
@[simp] theorem State.withColon_brightness (v : Bool) : (s.withColon v).brightness = s.brightness := rfl
@[simp] theorem State.withColon_colon (v : Bool) : (s.withColon v).colon = v := rfl
@[simp] theorem State.withColon_lines (v : Bool) : (s.withColon v).lines = s.lines := rfl
@[simp] theorem State.withColon_frame (v : Bool) : (s.withColon v).frame = s.frame := rfl
@[simp] theorem State.withColon_trace (v : Bool) : (s.withColon v).trace = s.trace := rfl
@[simp] theorem State.withColon_result (v : Bool) : (s.withColon v).result = s.result := rfl
@[simp] theorem State.withColon_refused (v : Bool) : (s.withColon v).refused = s.refused := rfl
@[simp] theorem State.withColon_reasons (v : Bool) : (s.withColon v).reasons = s.reasons := rfl
@[simp] theorem State.withColon_host (v : Bool) : (s.withColon v).host = s.host := rfl

@[simp] theorem State.withFrame_config (v : Framing) : (s.withFrame v).config = s.config := rfl
@[simp] theorem State.withFrame_brightness (v : Framing) : (s.withFrame v).brightness = s.brightness := rfl
@[simp] theorem State.withFrame_colon (v : Framing) : (s.withFrame v).colon = s.colon := rfl
@[simp] theorem State.withFrame_lines (v : Framing) : (s.withFrame v).lines = s.lines := rfl
@[simp] theorem State.withFrame_frame (v : Framing) : (s.withFrame v).frame = v := rfl
@[simp] theorem State.withFrame_trace (v : Framing) : (s.withFrame v).trace = s.trace := rfl
@[simp] theorem State.withFrame_result (v : Framing) : (s.withFrame v).result = s.result := rfl
@[simp] theorem State.withFrame_refused (v : Framing) : (s.withFrame v).refused = s.refused := rfl
@[simp] theorem State.withFrame_reasons (v : Framing) : (s.withFrame v).reasons = s.reasons := rfl
@[simp] theorem State.withFrame_host (v : Framing) : (s.withFrame v).host = s.host := rfl

@[simp] theorem State.withHost_config (v : List HostIssue) : (s.withHost v).config = s.config := rfl
@[simp] theorem State.withHost_brightness (v : List HostIssue) : (s.withHost v).brightness = s.brightness := rfl
@[simp] theorem State.withHost_colon (v : List HostIssue) : (s.withHost v).colon = s.colon := rfl
@[simp] theorem State.withHost_lines (v : List HostIssue) : (s.withHost v).lines = s.lines := rfl
@[simp] theorem State.withHost_frame (v : List HostIssue) : (s.withHost v).frame = s.frame := rfl
@[simp] theorem State.withHost_trace (v : List HostIssue) : (s.withHost v).trace = s.trace := rfl
@[simp] theorem State.withHost_result (v : List HostIssue) : (s.withHost v).result = s.result := rfl
@[simp] theorem State.withHost_refused (v : List HostIssue) : (s.withHost v).refused = s.refused := rfl
@[simp] theorem State.withHost_reasons (v : List HostIssue) : (s.withHost v).reasons = s.reasons := rfl
@[simp] theorem State.withHost_host (v : List HostIssue) : (s.withHost v).host = v := rfl

@[simp] theorem State.append_config (es : List Event) : (s.append es).config = s.config := rfl
@[simp] theorem State.append_brightness (es : List Event) : (s.append es).brightness = s.brightness := rfl
@[simp] theorem State.append_colon (es : List Event) : (s.append es).colon = s.colon := rfl
@[simp] theorem State.append_lines (es : List Event) : (s.append es).lines = s.lines.replay es := rfl
@[simp] theorem State.append_frame (es : List Event) : (s.append es).frame = s.frame := rfl
@[simp] theorem State.append_trace (es : List Event) : (s.append es).trace = s.trace ++ es := rfl
@[simp] theorem State.append_result (es : List Event) : (s.append es).result = s.result := rfl
@[simp] theorem State.append_refused (es : List Event) : (s.append es).refused = s.refused := rfl
@[simp] theorem State.append_reasons (es : List Event) : (s.append es).reasons = s.reasons := rfl
@[simp] theorem State.append_host (es : List Event) : (s.append es).host = s.host := rfl

@[simp] theorem State.refuse_config (r : RefuseReason) : (s.refuse r).config = s.config := rfl
@[simp] theorem State.refuse_brightness (r : RefuseReason) : (s.refuse r).brightness = s.brightness := rfl
@[simp] theorem State.refuse_colon (r : RefuseReason) : (s.refuse r).colon = s.colon := rfl
@[simp] theorem State.refuse_lines (r : RefuseReason) : (s.refuse r).lines = s.lines := rfl
@[simp] theorem State.refuse_frame (r : RefuseReason) : (s.refuse r).frame = s.frame := rfl
@[simp] theorem State.refuse_trace (r : RefuseReason) : (s.refuse r).trace = s.trace := rfl
@[simp] theorem State.refuse_result (r : RefuseReason) : (s.refuse r).result = s.result := rfl
@[simp] theorem State.refuse_refused (r : RefuseReason) : (s.refuse r).refused = true := rfl
@[simp] theorem State.refuse_reasons (r : RefuseReason) : (s.refuse r).reasons = s.reasons ++ [r] := rfl
@[simp] theorem State.refuse_host (r : RefuseReason) : (s.refuse r).host = s.host := rfl

end Sys2Proof.Machine
end

