-- ==== Sys2Proof/Laws/Ops.lean ====
section
/-! SUPPORT. What each shared operation can do, said once. -/

namespace Sys2Proof.Machine

/-! ### Lines and lists of events -/

@[simp] theorem Lines.replay_nil (l : Lines) : l.replay [] = l := rfl

@[simp] theorem Lines.replay_cons (l : Lines) (e : Event) (es : List Event) :
    l.replay (e :: es) = (l.apply e).replay es := rfl

@[simp] theorem Lines.replay_append (l : Lines) (es fs : List Event) :
    l.replay (es ++ fs) = (l.replay es).replay fs := List.foldl_append

@[simp] theorem Lines.admitsAll_nil (l : Lines) : l.admitsAll [] = true := rfl

@[simp] theorem Lines.admitsAll_cons (l : Lines) (e : Event) (es : List Event) :
    l.admitsAll (e :: es) = (l.admits e && (l.apply e).admitsAll es) := rfl

@[simp] theorem Lines.admitsAll_append (l : Lines) (es fs : List Event) :
    l.admitsAll (es ++ fs) = (l.admitsAll es && (l.replay es).admitsAll fs) := by
  induction es generalizing l with
  | nil => rfl
  | cons e es ih => simp [ih, Bool.and_assoc]

@[simp] theorem State.append_nil (s : State) : s.append [] = s := by simp [State.append]

@[simp] theorem State.append_append (s : State) (es fs : List Event) :
    (s.append es).append fs = s.append (es ++ fs) := by simp [State.append]

/-- `emits` runs the whole list, or stops at the first event whose requirement (R29) the lines do not meet. -/
theorem emits_eq (es : List Event) (s : State) :
    emits es s = if s.lines.admitsAll es then .done (s.append es) else .stopped .dioDrivenWhileReleased := by
  induction es generalizing s with
  | nil => simp [emits]
  | cons e es ih =>
    by_cases h : s.lines.admits e = true
    · simp [emits, emit, h, Flow.andThen, ih, State.append]
    · simp [emits, emit, h, Flow.andThen]

/-! ### The primitives' events -/

/-- WRITE's working copy yields the bits in order, least significant first (R107). -/
theorem shiftedBits_getElem? (k : Nat) (b : Byte) (i : Nat) :
    (shiftedBits k b)[i]? = if i < k then some (b.getLsbD i) else none := by
  induction k generalizing b i with
  | zero => simp [shiftedBits]
  | succ k ih =>
    cases i with
    | zero => simp [shiftedBits]
    | succ i => simp [shiftedBits, ih, Nat.add_comm]

theorem shiftedBits_eq (b : Byte) :
    shiftedBits 8 b = [b.getLsbD 0, b.getLsbD 1, b.getLsbD 2, b.getLsbD 3, b.getLsbD 4, b.getLsbD 5, b.getLsbD 6,
      b.getLsbD 7] := by
  apply List.ext_getElem?
  intro i
  rw [shiftedBits_getElem?]
  rcases i with _ | _ | _ | _ | _ | _ | _ | _ | i <;> simp

theorem Lines.apply_dataEvent (l : Lines) (b : Bool) : l.apply (dataEvent b) = { l with dioOut := b } := by
  cases b <;> rfl

theorem Lines.admits_dataEvent (l : Lines) (b : Bool) : l.admits (dataEvent b) = (l.dioDir == .output) := by
  cases b <;> rfl

/-- One data bit leaves CLK high and the bit on DIO. -/
@[simp] theorem Lines.replay_bitEvents (l : Lines) (b : Bool) :
    l.replay (bitEvents b) = ⟨true, l.dioDir, b⟩ := by
  cases b <;> rfl

@[simp] theorem Lines.admitsAll_bitEvents (l : Lines) (b : Bool) :
    l.admitsAll (bitEvents b) = (l.dioDir == .output) := by
  cases b <;> simp [bitEvents, dataEvent, Lines.admits, Lines.apply]

@[simp] theorem Lines.dioDir_replay_bits (l : Lines) (bs : List Bool) :
    (l.replay (bs.flatMap bitEvents)).dioDir = l.dioDir := by
  induction bs generalizing l with
  | nil => rfl
  | cons b bs ih => simp [ih]

theorem Lines.admitsAll_bits (l : Lines) (bs : List Bool) (h : l.dioDir = .output) :
    l.admitsAll (bs.flatMap bitEvents) = true := by
  induction bs generalizing l with
  | nil => rfl
  | cons b bs ih => simp [h, ih ⟨true, .output, b⟩ rfl]

/-- A WRITE leaves CLK low and DIO driven low, whatever the byte (R108). -/
@[simp] theorem Lines.replay_writeEvents (l : Lines) (b : Byte) :
    l.replay (writeEvents b) = ⟨false, .output, false⟩ := by
  simp [writeEvents, ackEvents, Lines.apply]

/-- A WRITE meets the requirements of R29 exactly when DIO is driven as it begins. -/
@[simp] theorem Lines.admitsAll_writeEvents (l : Lines) (b : Byte) :
    l.admitsAll (writeEvents b) = (l.dioDir == .output) := by
  by_cases h : l.dioDir = .output
  · simp [writeEvents, Lines.admitsAll_bits l _ h, h, ackEvents, Lines.admits]
  · simp [writeEvents, shiftedBits, h]

@[simp] theorem Lines.replay_startEvents (l : Lines) : l.replay startEvents = { l with dioOut := false } := rfl

@[simp] theorem Lines.admitsAll_startEvents (l : Lines) : l.admitsAll startEvents = (l.dioDir == .output) := by
  simp [startEvents, Lines.admits]

/-- STOP leaves both lines high (R103). -/
@[simp] theorem Lines.replay_stopEvents (l : Lines) : l.replay stopEvents = ⟨true, l.dioDir, true⟩ := rfl

@[simp] theorem Lines.admitsAll_stopEvents (l : Lines) : l.admitsAll stopEvents = (l.dioDir == .output) := by
  simp [stopEvents, Lines.admits, Lines.apply]

/-- WRITEs keep DIO driven, and leave CLK low and DIO low unless there is none (R108). -/
theorem Lines.replay_writes (l : Lines) (bytes : List Byte) (h : l.dioDir = .output) :
    (l.replay (bytes.flatMap writeEvents)).dioDir = .output ∧
      (l.dioOut = false → (l.replay (bytes.flatMap writeEvents)).dioOut = false) := by
  induction bytes generalizing l with
  | nil => simp [h]
  | cons b bs ih =>
    have := ih ⟨false, .output, false⟩ rfl
    simpa using ⟨this.1, fun _ => this.2 rfl⟩

theorem Lines.admitsAll_writes (l : Lines) (bytes : List Byte) (h : l.dioDir = .output) :
    l.admitsAll (bytes.flatMap writeEvents) = true := by
  induction bytes generalizing l with
  | nil => rfl
  | cons b bs ih => simp [h, ih ⟨false, .output, false⟩ rfl]

/-- A frame begun while DIO is driven leaves the lines idle (R102, R103). -/
theorem Lines.replay_frameEvents (l : Lines) (bytes : Frame) (h : l.dioDir = .output) :
    l.replay (frameEvents bytes) = Lines.idle := by
  have := (Lines.replay_writes { l with dioOut := false } bytes h).1
  simp [frameEvents, openFrameEvents, this, Lines.idle]

theorem Lines.admitsAll_frameEvents (l : Lines) (bytes : Frame) :
    l.admitsAll (frameEvents bytes) = (l.dioDir == .output) := by
  by_cases h : l.dioDir = .output
  · simp [frameEvents, openFrameEvents, h, Lines.admitsAll_writes ⟨l.clkOut, .output, false⟩ bytes rfl,
      (Lines.replay_writes ⟨l.clkOut, .output, false⟩ bytes rfl).1]
  · simp [frameEvents, openFrameEvents, h]

/-! ### The primitives, transactions and SET, each as one equation -/

/-- How a body ends that asks only for DIO driven: in the state given, or in the fault of R29 (log 7). -/
def whenDriven (s t : State) : Flow :=
  if s.lines.dioDir = .output then .done t else .stopped .dioDrivenWhileReleased

/-- START's effect (R100). -/
theorem openFrame_eq (s : State) : openFrame s = whenDriven s ((s.append startEvents).withFrame .opened) := by
  rcases s with ⟨_, _, _, ⟨_, dir, _⟩, _, _, _, _, _, _⟩
  cases dir <;> simp [openFrame, whenDriven, emits_eq, Flow.andThen]

/-- START as the host issues it (R100, R101): its two refusals in the order of R235, then its effect. -/
theorem callStart_eq (s : State) :
    callStart s =
      if s.frame = .opened then .raised .startInFrame
      else if s.lines.clkOut = false then .raised .startClockLow
      else whenDriven s ((s.append startEvents).withFrame .opened) := by
  rw [callStart, openFrame_eq]

/-- STOP (R103, R105). -/
theorem callStop_eq (s : State) :
    callStop s =
      if s.frame = .idle then .raised .stopOutsideFrame
      else whenDriven s ((s.append stopEvents).withFrame .idle) := by
  rcases s with ⟨_, _, _, ⟨_, dir, _⟩, frame, _, _, _, _, _⟩
  cases frame <;> cases dir <;> simp [callStop, whenDriven, emits_eq, Flow.andThen]

/-- WRITE (R106, R109). -/
theorem callWrite_eq (b : Byte) (s : State) :
    callWrite b s =
      if s.frame = .idle then .raised .writeOutsideFrame
      else whenDriven s (s.append (writeEvents b)) := by
  rcases s with ⟨_, _, _, ⟨_, dir, _⟩, frame, _, _, _, _, _⟩
  cases frame <;> cases dir <;> simp [callWrite, whenDriven, emits_eq]

/-- WRITEs in an open frame with DIO driven all run (R106). -/
theorem callWrites_eq (bytes : List Byte) (s : State) (hf : s.frame = .opened) (hd : s.lines.dioDir = .output) :
    callWrites bytes s = .done (s.append (bytes.flatMap writeEvents)) := by
  induction bytes generalizing s with
  | nil => simp [callWrites]
  | cons b bs ih =>
    have := ih (s.append (writeEvents b)) (by simpa using hf) (by simp)
    simp [callWrites, callWrite_eq, whenDriven, hf, hd, Flow.andThen, this]

/-- One transaction appends its frame's events (R115), in any FRAME and at any clock level, and leaves FRAME idle. -/
theorem transaction_eq (bytes : Frame) (s : State) :
    transaction bytes s = whenDriven s ((s.append (frameEvents bytes)).withFrame .idle) := by
  rcases s with ⟨c, b, co, ⟨clk, dir, dio⟩, frame, tr, re, rf, rs, ho⟩
  cases dir <;> simp [transaction, openFrame_eq, whenDriven, Flow.andThen]
  rw [callWrites_eq _ _ rfl rfl]
  have h := (Lines.replay_writes ⟨clk, .output, false⟩ bytes rfl).1
  simp [callStop_eq, whenDriven, h, State.append, State.withFrame, frameEvents, openFrameEvents]

/-- SET's three frames, from the state it starts in (R140, R145). -/
def setFrames (s : State) (count position : Byte) (p : Vector Byte numDigits) : List Frame :=
  [[autoincByte s], dataFrame s count position p, [displayByte s]]

/-- SET as one equation: it appends its three frames (R145) and leaves FRAME idle (R140). -/
theorem callSet_eq (count position : Byte) (p : Vector Byte numDigits) (s : State) :
    callSet count position p s =
      whenDriven s ((s.append (framesEvents (setFrames s count position p))).withFrame .idle) := by
  rcases s with ⟨c, b, co, ⟨clk, dir, dio⟩, frame, tr, re, rf, rs, ho⟩
  cases dir <;> simp [callSet, transaction_eq, whenDriven, Flow.andThen]
  simp [Lines.replay_frameEvents, Lines.idle, framesEvents, setFrames, State.append, State.withFrame]
  rfl

/-- SET's frames leave the lines idle (R140). -/
theorem Lines.replay_setFrames (t : State) (l : Lines) (count position : Byte) (p : Vector Byte numDigits)
    (h : l.dioDir = .output) : l.replay (framesEvents (setFrames t count position p)) = Lines.idle := by
  simp [framesEvents, setFrames, Lines.replay_frameEvents, h, Lines.idle]

/-! ### Commands -/

/-- Every way a command can end: its body ran and RESULT is none, or it was refused and only marked, or it stopped. -/
theorem runCommand_next {body : State → Flow} {s t : State} (h : runCommand body s = .next t) :
    (∃ u, body s = .done u ∧ t = u.withResult none) ∨ (∃ r, body s = .raised r ∧ t = s.refuse r) := by
  unfold runCommand at h
  split at h
  · exact .inl ⟨_, ‹_›, (Host.Outcome.next.inj h).symm⟩
  · exact .inr ⟨_, ‹_›, (Host.Outcome.next.inj h).symm⟩
  · cases h

theorem runCommand_done {body : State → Flow} {s t : State} (h : body s = .done t) :
    runCommand body s = .next (t.withResult none) := by simp [runCommand, h]

theorem runCommand_raised {body : State → Flow} {s : State} {r : RefuseReason} (h : body s = .raised r) :
    runCommand body s = .next (s.refuse r) := by simp [runCommand, h]

theorem runCommand_stopped {body : State → Flow} {s : State} {f : Fault} (h : body s = .stopped f) :
    runCommand body s = .fault f := by simp [runCommand, h]

end Sys2Proof.Machine
end

