-- ==== Sys2Proof/Laws/PerInstr.lean ====
section
/-! SUPPORT. Per-instruction families: one lemma for each constructor of Instr. -/

namespace Sys2Proof.Laws.EncodedRow

/-- The word of the command lies in the command's row of spec/opcode_table.json. -/
def Statement (i : Instr) : Prop := i.row.holds (encode i) = true

theorem clear : Statement .clear := by unfold Statement; decide

theorem set (count position p0 p1 p2 p3 : Byte) : Statement (.set count position p0 p1 p2 p3) := by
  simp only [Statement, OpcodeRow.holds, Instr.row, beq_iff_eq]
  apply BitVec.eq_of_getLsbD_eq
  intro i hi
  simp only [encode, BitVec.getLsbD_and, BitVec.getLsbD_append]
  interval_cases i <;> simp

theorem showNumber (number : BitVec numberWidth) (lz : Bool) (base length position : Byte) :
    Statement (.showNumber number lz base length position) := by
  simp only [Statement, OpcodeRow.holds, Instr.row, beq_iff_eq]
  apply BitVec.eq_of_getLsbD_eq
  intro i hi
  simp only [encode, BitVec.getLsbD_and, BitVec.getLsbD_append]
  cases lz <;> interval_cases i <;> simp [Byte.ofFlag]

theorem encode (digit : Byte) : Statement (.encode digit) := by unfold Statement; revert digit; decide

theorem brightnessGet : Statement .brightnessGet := by unfold Statement; decide

theorem brightnessSet (v : Byte) : Statement (.brightnessSet v) := by unfold Statement; revert v; decide

theorem colonGet : Statement .colonGet := by unfold Statement; decide

theorem colonSet (flag : Bool) : Statement (.colonSet flag) := by unfold Statement; revert flag; decide

theorem start : Statement .start := by unfold Statement; decide

theorem stop : Statement .stop := by unfold Statement; decide

theorem write (byte : Byte) : Statement (.write byte) := by unfold Statement; revert byte; decide

end Sys2Proof.Laws.EncodedRow
end

