-- ==== Sys2Proof/Laws/Show.lean ====
section
/-! SUPPORT. SHOW's ROM read and conversion loop, each said once. -/

namespace Sys2Proof.Machine

/-- The lookup index of SHOW is within the table (R174). -/
theorem readLut_mod (c : Config) (n base : Nat) (h : 0 < base) (h' : base ≤ 16) :
    readLut c (BitVec.ofNat 4 (n % base)) = c.segLut.toList.getD (n % base) 0 := by
  have := Nat.mod_lt n h
  have hn : n % base < 16 := by omega
  rw [List.getD_eq_getElem?_getD]
  simp [readLut, Nat.mod_eq_of_lt hn, hn]

/-- The loop as a closed form (R173, R178): slot `i` below `left` gets digit `left - 1 - i` where the number reaches it, and
every other slot is kept. -/
theorem fillDigits_getElem (c : Config) (base : Nat) (hb : 2 ≤ base) (hb' : base ≤ 16) (left n : Nat) (hl : left ≤ 4)
    (buf : Buf) (i : Nat) (hi : i < 4) :
    (fillDigits c base left n buf)[i] =
      if i < left ∧ n ≥ base ^ (left - 1 - i) then
        some (c.segLut.toList.getD (n / base ^ (left - 1 - i) % base) 0)
      else buf[i] := by
  induction left generalizing n buf with
  | zero => simp [fillDigits]
  | succ left ih =>
    by_cases hn : n = 0
    · have hp := Nat.pow_pos (a := base) (n := left + 1 - 1 - i) (by omega)
      have hf : fillDigits c base (left + 1) n buf = buf := by simp [fillDigits, hn]
      simp only [hf]
      rw [if_neg (by omega)]
    · have hf : fillDigits c base (left + 1) n buf =
          fillDigits c base left (n / base) (buf.setIfInBounds left (some (readLut c (BitVec.ofNat 4 (n % base))))) := by
        simp [fillDigits, hn]
      simp only [hf]
      rw [ih _ (by omega), Vector.getElem_setIfInBounds]
      by_cases hlt : i < left
      · have hk : left + 1 - 1 - i = (left - 1 - i) + 1 := by omega
        have hge : n / base ≥ base ^ (left - 1 - i) ↔ n ≥ base ^ (left - 1 - i) * base := by
          rw [ge_iff_le, Nat.le_div_iff_mul_le (by omega)]
        rw [hk, Nat.pow_succ, Nat.div_div_eq_div_mul, Nat.mul_comm base]
        simp [hge, hlt, show i < left + 1 by omega, show left ≠ i by omega]
      · rw [if_neg (by tauto)]
        by_cases he : left = i
        · subst he
          rw [if_pos rfl, if_pos (by simp; omega), readLut_mod c n base (by omega) hb']
          simp
        · rw [if_neg he, if_neg (by omega)]

end Sys2Proof.Machine
end

