-- ==== Sys2Proof/Laws/Step.lean ====
section
/-! SUPPORT. What a command and a step can do, said once: the inversions later proofs split on. -/

namespace Sys2Proof.Machine

/-- A body that asks only for DIO driven, run as a command: it completes, and nothing is refused. -/
theorem runCommand_whenDriven {s t u : State} {body : State → Flow} (hb : body s = whenDriven s u)
    (h : runCommand body s = .next t) : s.driving ∧ t = u.withResult none := by
  unfold runCommand at h
  rw [hb, whenDriven] at h
  split_ifs at h with hd
  exact ⟨hd, (Host.Outcome.next.inj h).symm⟩

/-- CLEAR's body as one equation (R150, R152): SET of four zero bytes with the colon off. -/
theorem callClear_eq (s : State) :
    callClear s =
      whenDriven s ((s.append (framesEvents (setFrames (s.withColon false) 4 0 zeroBuffer))).withFrame .idle) := by
  rw [callClear, callSet_eq]
  generalize framesEvents _ = es
  rcases s with ⟨_, _, _, ⟨_, dir, _⟩, _, _, _, _, _, _⟩
  cases dir <;> rfl

/-- The length SHOW sends is 1 to 4 (R171). -/
theorem clampLength_toNat (l : Byte) : (clampLength l).toNat = max 1 (min 4 l.toNat) := by
  revert l; decide

/-- Each display command is SET's three frames for some operands, read from the state it was issued in or, for CLEAR, from
that state with the colon off. -/
theorem IsDisplay.exec_eq {i : Instr} (h : IsDisplay i) (s : State) :
    ∃ (u : State) (count position : Byte) (p : Vector Byte numDigits) (body : State → Flow),
      (u = s ∨ u = s.withColon false) ∧ count.toNat ≤ numDigits ∧ exec i s = runCommand body s ∧
        body s = whenDriven s ((s.append (framesEvents (setFrames u count position p))).withFrame .idle) := by
  cases h with
  | clear => exact ⟨_, _, _, _, _, .inr rfl, by decide, rfl, callClear_eq s⟩
  | set count position p0 p1 p2 p3 hc =>
    exact ⟨_, _, _, _, _, .inl rfl, hc, if_pos hc, callSet_eq ..⟩
  | showNumber number lz base length position =>
    exact ⟨_, _, _, _, _, .inl rfl, by rw [clampLength_toNat]; simp only [numDigits]; omega, rfl, callSet_eq ..⟩

/-- Which commands are refused, and where: the primitives (R101, R105, R109), and a SET term no word decodes to (R143,
log 19). -/
inductive Refusable : Instr → State → RefuseReason → Prop
  | set (count position p0 p1 p2 p3 : Byte) (s : State) : ¬ count.toNat ≤ numDigits →
      Refusable (.set count position p0 p1 p2 p3) s .illegalCommand
  | startInFrame (s : State) : s.frame = .opened → Refusable .start s .startInFrame
  | startClockLow (s : State) : s.frame = .idle → s.lines.clkOut = false → Refusable .start s .startClockLow
  | stop (s : State) : s.frame = .idle → Refusable .stop s .stopOutsideFrame
  | write (byte : Byte) (s : State) : s.frame = .idle → Refusable (.write byte) s .writeOutsideFrame

/-- The invariant keeps DIO driven between commands (R102). -/
theorem State.Inv.driving {s : State} (h : s.Inv) : s.driving := by
  have hl := h.linesMatchFrame
  unfold State.linesMatchFrame at hl
  split at hl
  · rw [State.driving, hl]; rfl
  · exact hl.1

/-- Everything a command can do when it gives a next state. -/
inductive Effect (s : State) : Instr → State → Prop
  | display (i : Instr) (u : State) (count position : Byte) (p : Vector Byte numDigits) :
      IsDisplay i → s.driving → (u = s ∨ u = s.withColon false) → count.toNat ≤ numDigits →
        Effect s i (((s.append (framesEvents (setFrames u count position p))).withFrame .idle).withResult none)
  | start : s.ready → Effect s .start (((s.append startEvents).withFrame .opened).withResult none)
  | stop : s.inFrame → Effect s .stop (((s.append stopEvents).withFrame .idle).withResult none)
  | write (byte : Byte) : s.inFrame → Effect s (.write byte) ((s.append (writeEvents byte)).withResult none)
  | encode (digit : Byte) : Effect s (.encode digit) (s.withResult (some (readLut s.config (maskDigit digit))))
  | brightnessGet : Effect s .brightnessGet (s.withResult (some (brightnessResult s)))
  | brightnessSet (v : Byte) :
      Effect s (.brightnessSet v) ((s.withBrightness (nextBrightness s v)).withResult (some (brightnessResult s)))
  | colonGet : Effect s .colonGet (s.withResult (some (flagResult s.colon)))
  | colonSet (flag : Bool) : Effect s (.colonSet flag) ((s.withColon flag).withResult (some (flagResult s.colon)))
  | refused (i : Instr) (r : RefuseReason) : Refusable i s r → Effect s i (s.refuse r)

/-- The inversion of `exec`. -/
theorem exec_effect {i : Instr} {s t : State} (h : exec i s = .next t) : Effect s i t := by
  have display : ∀ {i : Instr}, IsDisplay i → exec i s = .next t → Effect s i t := by
    intro i hi h
    obtain ⟨u, count, position, p, body, hu, hc, he, hb⟩ := hi.exec_eq s
    obtain ⟨hd, rfl⟩ := runCommand_whenDriven hb (he ▸ h)
    exact .display i u count position p hi hd hu hc
  cases i with
  | clear => exact display .clear h
  | set count position p0 p1 p2 p3 =>
    by_cases hc : count.toNat ≤ numDigits
    · exact display (.set _ _ _ _ _ _ hc) h
    · have : (.next (s.refuse .illegalCommand) : Host.Outcome State Fault Refusal) = .next t := (if_neg hc).symm.trans h
      obtain rfl := Host.Outcome.next.inj this
      exact .refused _ _ (.set _ _ _ _ _ _ s hc)
  | showNumber => exact display (.showNumber ..) h
  | encode digit => obtain rfl := Host.Outcome.next.inj h; exact .encode digit
  | brightnessGet => obtain rfl := Host.Outcome.next.inj h; exact .brightnessGet
  | brightnessSet v => obtain rfl := Host.Outcome.next.inj h; exact .brightnessSet v
  | colonGet => obtain rfl := Host.Outcome.next.inj h; exact .colonGet
  | colonSet flag => obtain rfl := Host.Outcome.next.inj h; exact .colonSet flag
  | start =>
    rcases runCommand_next h with ⟨u, hu, rfl⟩ | ⟨r, hr, rfl⟩
    · rw [callStart_eq, whenDriven] at hu
      split_ifs at hu with hf hk hd
      cases hu
      exact .start ⟨by cases hs : s.frame <;> simp_all, by simpa using hk, hd⟩
    · rw [callStart_eq, whenDriven] at hr
      split_ifs at hr with hf hk <;> cases hr
      · exact .refused _ _ (.startInFrame s hf)
      · exact .refused _ _ (.startClockLow s (by cases hs : s.frame <;> simp_all) hk)
  | stop =>
    rcases runCommand_next h with ⟨u, hu, rfl⟩ | ⟨r, hr, rfl⟩
    · rw [callStop_eq, whenDriven] at hu
      split_ifs at hu with hf hd
      cases hu
      exact .stop ⟨by cases hs : s.frame <;> simp_all, hd⟩
    · rw [callStop_eq, whenDriven] at hr
      split_ifs at hr with hf
      cases hr
      exact .refused _ _ (.stop s hf)
  | write byte =>
    rcases runCommand_next h with ⟨u, hu, rfl⟩ | ⟨r, hr, rfl⟩
    · rw [callWrite_eq, whenDriven] at hu
      split_ifs at hu with hf hd
      cases hu
      exact .write byte ⟨by cases hs : s.frame <;> simp_all, hd⟩
    · rw [callWrite_eq, whenDriven] at hr
      split_ifs at hr with hf
      cases hr
      exact .refused _ _ (.write byte s hf)

/-- The inversion of `step`: the engine waited, or took the oldest issue and ran its command or refused it. -/
theorem step_cases {s t : State} (h : step s = .next t) :
    (s.host = [] ∧ t = s) ∨ ∃ issue rest, s.host = issue :: rest ∧
      ((∃ i, receive issue = .run i ∧ exec i (s.withHost rest) = .next t) ∨
        (∃ r, receive issue = .refuse r ∧ r ≠ .startClockLow ∧ t = (s.withHost rest).refuse r)) := by
  unfold step at h
  split at h
  · exact .inl ⟨‹_›, (Host.Outcome.next.inj h).symm⟩
  · rename_i issue rest hh
    refine .inr ⟨issue, rest, hh, ?_⟩
    split at h
    · exact .inl ⟨_, ‹_›, h⟩
    · rename_i r hr
      refine .inr ⟨r, hr, ?_, (Host.Outcome.next.inj h).symm⟩
      rintro rfl
      cases issue <;> simp [receive] at hr
      split at hr <;> simp at hr

end Sys2Proof.Machine
end

