-- ==== Sys2Proof/Laws/TxLog.lean ====
section
/-! SUPPORT. What the operations of TXLOG do to its events, and reading one WRITE back from TRACE (R114). -/

namespace Sys2Proof.Machine

theorem framesEvents_append (a b : List Frame) : framesEvents (a ++ b) = framesEvents a ++ framesEvents b :=
  List.flatMap_append

/-! ### TXLOG and its events -/

@[simp] theorem TxLog.events_nil : TxLog.events [] = [] := rfl

@[simp] theorem TxLog.events_append (log more : TxLog) :
    TxLog.events (log ++ more) = TxLog.events log ++ TxLog.events more := List.flatMap_append

@[simp] theorem TxLog.events_singleton (frame : LoggedFrame) : TxLog.events [frame] = frame.events := by
  simp [TxLog.events]

/-- The events of closed frames are R114's formula. -/
@[simp] theorem TxLog.events_ofClosed (frames : List Frame) : (TxLog.ofClosed frames).events = framesEvents frames := by
  simp [TxLog.events, TxLog.ofClosed, framesEvents, List.flatMap_map, LoggedFrame.events]
  rfl

theorem TxLog.mapLast_append (f : LoggedFrame → LoggedFrame) (log : TxLog) (last : LoggedFrame) :
    TxLog.mapLast f (log ++ [last]) = log ++ [f last] := by
  induction log with
  | nil => rfl
  | cons frame rest ih => cases rest <;> simp_all [TxLog.mapLast]

/-- A log is open exactly when it ends in a frame no STOP has closed. -/
theorem TxLog.isOpen_iff (log : TxLog) : log.isOpen = true ↔ ∃ before bytes, log = before ++ [⟨bytes, false⟩] := by
  constructor
  · intro h
    rcases List.eq_nil_or_concat log with rfl | ⟨before, ⟨bytes, closed⟩, rfl⟩
    · cases h
    · cases closed
      · exact ⟨before, bytes, by simp⟩
      · simp [TxLog.isOpen] at h
  · rintro ⟨before, bytes, rfl⟩
    simp [TxLog.isOpen]

/-- Closed frames at the end leave no frame open. -/
@[simp] theorem TxLog.isOpen_append_closed (log : TxLog) (bytes : Frame) : TxLog.isOpen (log ++ [⟨bytes, true⟩]) = false := by
  simp [TxLog.isOpen]

@[simp] theorem TxLog.isOpen_start (log : TxLog) : log.start.isOpen = true :=
  (TxLog.isOpen_iff _).2 ⟨log, [], rfl⟩

/-- START adds its own events (R100, R114). -/
theorem TxLog.events_start (log : TxLog) : log.start.events = log.events ++ startEvents := by
  simp [TxLog.start, LoggedFrame.events, openFrameEvents]

/-- WRITE adds its own events to an open log, which stays open (R106, R114). -/
theorem TxLog.events_write {log : TxLog} (b : Byte) (h : log.isOpen = true) :
    (log.write b).events = log.events ++ writeEvents b ∧ (log.write b).isOpen = true := by
  obtain ⟨before, bytes, rfl⟩ := (TxLog.isOpen_iff log).1 h
  simp only [TxLog.write, TxLog.mapLast_append]
  exact ⟨by simp [LoggedFrame.events, openFrameEvents], (TxLog.isOpen_iff _).2 ⟨before, _, rfl⟩⟩

/-- STOP adds its own events to an open log, which is then closed (R103, R114). -/
theorem TxLog.events_stop {log : TxLog} (h : log.isOpen = true) :
    log.stop.events = log.events ++ stopEvents ∧ log.stop.isOpen = false := by
  obtain ⟨before, bytes, rfl⟩ := (TxLog.isOpen_iff log).1 h
  simp [TxLog.stop, TxLog.mapLast_append, LoggedFrame.events]

/-! ### Reading one WRITE -/

/-- The bits of a byte make the byte (R51). -/
theorem byteOfBits_shiftedBits (b : Byte) : byteOfBits (shiftedBits 8 b) = b := by
  rw [shiftedBits_eq]
  revert b; decide

/-- Eight bits are the bits of the byte they make (R51). -/
theorem shiftedBits_byteOfBits (bs : List Bool) (h : bs.length = 8) : shiftedBits 8 (byteOfBits bs) = bs := by
  match bs, h with
  | [a, b, c, d, e, f, g, i], _ => revert a b c d e f g i; decide

theorem shiftedBits_length (b : Byte) : (shiftedBits 8 b).length = 8 := by rw [shiftedBits_eq]; rfl

/-- `takeBits` reads exactly the events of its bits. -/
theorem takeBits_iff (bs : List Bool) (es rest : List Event) :
    takeBits bs.length es = some (bs, rest) ↔ es = bs.flatMap bitEvents ++ rest := by
  constructor
  · induction bs generalizing es with
    | nil => intro h; simpa [takeBits] using h
    | cons b bs ih =>
      intro h
      rw [List.length_cons] at h
      unfold takeBits at h
      split at h
      · omega
      · rename_i k d es' hk
        obtain rfl : bs.length = k := by omega
        split at h
        · rename_i hd ht
          simp only [Option.some.injEq, Prod.mk.injEq, List.cons.injEq] at h
          obtain ⟨⟨rfl, rfl⟩, rfl⟩ := h
          rw [ih _ ht]
          cases d <;> simp [Event.dataLevel] at hd <;> subst hd <;> rfl
        · cases h
      · cases h
  · rintro rfl
    induction bs with
    | nil => rfl
    | cons b bs ih => cases b <;> simp_all [bitEvents, dataEvent, takeBits, Event.dataLevel]

/-- `takeBits k` reads `k` bits. -/
theorem takeBits_length {k : Nat} {es rest : List Event} {bs : List Bool} (h : takeBits k es = some (bs, rest)) :
    bs.length = k := by
  induction k generalizing es bs rest with
  | zero => simp [takeBits] at h; simp [← h.1]
  | succ k ih =>
    unfold takeBits at h
    split at h
    · omega
    · rename_i k' d es' hk
      obtain rfl : k = k' := by omega
      split at h
      · rename_i ht
        simp only [Option.some.injEq, Prod.mk.injEq] at h
        rw [← h.1, List.length_cons, ih ht]
      · cases h
    · cases h

theorem takeAck_iff (es rest : List Event) : takeAck es = some rest ↔ es = ackEvents ++ rest := by
  constructor
  · intro h
    unfold takeAck at h
    split at h
    · simp only [Option.some.injEq] at h
      simp [h, ackEvents]
    · cases h
  · rintro rfl; rfl

/-- `takeWrite` reads a byte exactly from the events of a WRITE of it (R106, R114). -/
theorem takeWrite_iff (es rest : List Event) (b : Byte) :
    takeWrite es = some (b, rest) ↔ es = writeEvents b ++ rest := by
  constructor
  · intro h
    unfold takeWrite at h
    split at h
    · cases h
    · rename_i bits r hb
      have hl := takeBits_length hb
      have he := (takeBits_iff bits es r).1 (hl ▸ hb)
      simp only [Option.map_eq_some_iff, Prod.mk.injEq] at h
      obtain ⟨_, ha, rfl, rfl⟩ := h
      rw [he, (takeAck_iff _ _).1 ha, writeEvents, shiftedBits_byteOfBits bits hl, List.append_assoc]
  · rintro rfl
    have hb := (takeBits_iff (shiftedBits 8 b) _ (ackEvents ++ rest)).2 rfl
    rw [shiftedBits_length] at hb
    unfold takeWrite
    rw [writeEvents, List.append_assoc, hb]
    simp [(takeAck_iff _ _).2 rfl, byteOfBits_shiftedBits]

end Sys2Proof.Machine
end

