-- ==== Sys2Proof/Tests/Slice0.lean ====
section
/-! SUPPORT. The model's own tests. Expected results are the spec's: 95_test_vectors.md (S, V and P numbers) and the worked
examples of the rules named. Each runs one step or one command on a small state. -/

namespace Sys2Proof.Tests

open Sys2Proof.Machine

/-! ### WellFormed -/

theorem test_wf_set_count_4 : (Instr.set 4 0xFF 1 2 3 4).wellFormed = true := by decide
theorem test_wf_set_count_5_refused : (Instr.set 5 0 0 0 0 0).wellFormed = false := by decide

/-! ### Decode: words written out from R73 to R83, field by field, highest first -/

theorem test_decode_clear : decodeWord (0#60 ++ 0b0001#4) = .command .clear := by decide
theorem test_decode_set : decodeWord (0x44#8 ++ 0x33#8 ++ 0x22#8 ++ 0x11#8 ++ 0#8 ++ 0x05#8 ++ 0x03#8 ++ 0b0000#4 ++ 0b0010#4) =
    .command (.set 3 5 0x11 0x22 0x33 0x44) := by decide
theorem test_decode_show : decodeWord (1234#16 ++ 0#8 ++ 3#8 ++ 4#8 ++ 10#8 ++ 0#7 ++ 1#1 ++ 0b0000#4 ++ 0b0011#4) =
    .command (.showNumber 1234 true 10 4 3) := by decide
theorem test_decode_encode : decodeWord (0#48 ++ 0x1B#8 ++ 0b0000#4 ++ 0b0100#4) = .command (.encode 0x1B) := by decide
theorem test_decode_brightness_get : decodeWord (0#60 ++ 0b0101#4) = .command .brightnessGet := by decide
theorem test_decode_brightness_set : decodeWord (0#48 ++ 0x09#8 ++ 0b0000#4 ++ 0b0110#4) = .command (.brightnessSet 9) := by decide
theorem test_decode_colon_get : decodeWord (0#60 ++ 0b0111#4) = .command .colonGet := by decide
theorem test_decode_colon_set : decodeWord (0#55 ++ 1#1 ++ 0b0000#4 ++ 0b1000#4) = .command (.colonSet true) := by decide
theorem test_decode_start : decodeWord (0#60 ++ 0b1001#4) = .command .start := by decide
theorem test_decode_stop : decodeWord (0#60 ++ 0b1010#4) = .command .stop := by decide
theorem test_decode_write : decodeWord (0#48 ++ 0xC3#8 ++ 0b0000#4 ++ 0b1011#4) = .command (.write 0xC3) := by decide

/-- V81 to V83. -/
theorem test_decode_vectors : decodeWord 0x664F5B0600000402 = .command (.set 4 0 0x06 0x5B 0x4F 0x66) ∧
    decodeWord 0x0000020100010202 = .command (.set 2 1 0x01 0x02 0 0) ∧
    decodeWord 0x0000000000000402 = .command (.set 4 0 0 0 0 0) := by decide

/-- V88 to V98 and V28: words that spell no command. -/
theorem test_decode_illegal : ([0x0, 0xC, 0xFF, 0x11, 0x101, 0x1000002, 0x203, 0x10000000003, 0x10004, 0x208, 0x109, 0x502].map
    fun w => (decodeWord w).instr?) = List.replicate 12 none := by decide

theorem test_decode_short_bytes : decodeBytes [0x01, 0, 0, 0, 0, 0, 0] = (.illegal .truncated, []) := by decide
theorem test_table_word : decodeTableWord 64 0x04D20000040A0003 = some (.showNumber 1234 false 10 4 0) := by decide

/-- The programs' words (P2, P3). -/
theorem test_encode_programs : encode (.showNumber 255 false 16 2 2) = 0x00FF000202100003 ∧
    encode (.set 4 0 0x76 0x79 0x38 0x38) = 0x3838797600000402 ∧ encode (.colonSet true) = 0x108 := by decide

/-- R90's examples and R91's spellings as text. -/
theorem test_assemble_text : assembleText "SHOW 1234, 0, 10, 4, 0" = some 0x04D20000040A0003 ∧
    assembleText "SET 2, 1, 0x01, 0x02" = some 0x0000020100010202 ∧
    assembleText "ENCODE 0x1B" = some 0x1B04 ∧ assembleText "WRITE 0x40" = some 0x400B ∧
    assembleText "BRIGHTNESS_SET BRIGHT" = assembleText "BRIGHTNESS_SET 3" ∧ assembleText "CLEAR" = some 1 ∧
    assembleText "SHOWZ 5" = assembleText "SHOW 5, 1, 10, 4, 0" ∧ assembleText "COLON_SET 2" = none := by decide +kernel

/-! ### One command -/

/-- The next state, if there is one. -/
def after : Host.Outcome State Fault Refusal → Option State
  | .next s => some s
  | .fault _ => none
  | .refused _ => none

/-- What a command from the state shows: the frames it appended, as TXLOG reads them. -/
def framesSent (i : Instr) (s : State) : Option (List Frame) :=
  (after (exec i s)).bind fun t => (TxLog.ofTrace (t.trace.drop s.trace.length)).map TxLog.frames

/-- The RESULT of a command from the state. -/
def resultOf (i : Instr) (s : State) : Option (Option Byte) := (after (exec i s)).map State.result

/-- A reset machine with COLON and BRIGHTNESS set. -/
def withLooks (colon : Bool) (brightness : BitVec 3) : State := (State.reset.withColon colon).withBrightness brightness

/-- The state START leaves after reset (V1). -/
def inOpenFrame : State :=
  { State.reset with lines := ⟨true, .output, false⟩, frame := .opened, trace := [.dioL, .stall] }

/-- V1. -/
theorem test_start : after (exec .start State.reset) = some inOpenFrame := by decide

/-- V10. -/
theorem test_start_in_frame : after (exec .start inOpenFrame) =
    some { inOpenFrame with refused := true, reasons := [.startInFrame] } := by decide

/-- V2. -/
theorem test_stop : after (exec .stop inOpenFrame) =
    some { State.reset with trace := [.dioL, .stall, .dioL, .stall, .clkH, .stall, .dioH, .stall] } := by decide

/-- V9. -/
theorem test_stop_outside : after (exec .stop State.reset) =
    some { State.reset with refused := true, reasons := [.stopOutsideFrame] } := by decide

/-- V7: the data events of WRITE 0xA5 are H L H L L H L H; the lines end CLK = 0, DIO = 0, OUT (R108). -/
theorem test_write : (after (exec (.write 0xA5) inOpenFrame)).map (fun t => (t.trace.filterMap Event.dataLevel, t.lines)) =
    some ([false, true, false, true, false, false, true, false, true], ⟨false, .output, false⟩) := by decide

/-- V8. -/
theorem test_write_outside : after (exec (.write 0x12) State.reset) =
    some { State.reset with refused := true, reasons := [.writeOutsideFrame] } := by decide

/-- V20. -/
theorem test_set : framesSent (.set 2 1 0x01 0x02 0 0) State.reset = some [[0x40], [0xC1, 0x01, 0x02], [0x8A]] := by
  decide +kernel

/-- V23 with V26's brightness. -/
theorem test_set_colon : framesSent (.set 1 0xFF 0x00 9 9 9) (withLooks true 7) = some [[0x40], [0xC3, 0x80], [0x8F]] := by
  decide +kernel

/-- V29: the colon is off inside CLEAR and on after it. -/
theorem test_clear : framesSent .clear (withLooks true 2) = some [[0x40], [0xC0, 0, 0, 0, 0], [0x8A]] ∧
    (after (exec .clear (withLooks true 2))).map State.colon = some true := by decide +kernel

/-- V47: interior zeros are digits, the slot above the top digit is blank. -/
theorem test_show : framesSent (.showNumber 100 false 10 4 0) State.reset =
    some [[0x40], [0xC0, 0x00, 0x06, 0x3F, 0x3F], [0x8A]] := by decide +kernel

/-- V54: base 3 and position 7 are clamped (S10, S11), blank slots still carry the colon. -/
theorem test_show_clamped : framesSent (.showNumber 0 false 3 9 7) (withLooks true 2) =
    some [[0x40], [0xC0, 0x80, 0x80, 0x80, 0xBF], [0x8A]] := by decide +kernel

/-- R235: a public command is never refused after decode, in an open frame neither. R140: FRAME and the lines end idle; R114:
SET's three frames come after the open one. -/
theorem test_set_in_open_frame :
    framesSent (.set 1 3 0x01 0 0 0) inOpenFrame = some [[0x40], [0xC3, 0x01], [0x8A]] ∧
    ((after (exec (.set 1 3 0x01 0 0 0) inOpenFrame)).map fun t =>
      (t.refused, t.frame, t.lines, (TxLog.ofTrace t.trace).map TxLog.frames)) =
    some (false, .idle, Lines.idle, some [[], [0x40], [0xC3, 0x01], [0x8A]]) := by decide +kernel

/-- V64, V63. -/
theorem test_encode : resultOf (.encode 0x1B) State.reset = some (some 0x7C) := by decide
theorem test_encode_alias : resultOf (.encode 0xFF) State.reset = some (some 0x71) := by decide

/-- V65. -/
theorem test_brightness_get : resultOf .brightnessGet State.reset = some (some 0x02) := by decide

/-- V70: 4 is accepted, and the previous value returned. -/
theorem test_brightness_set : after (exec (.brightnessSet 4) State.reset) =
    some { State.reset with brightness := 4, result := some 2 } := by decide

/-- V67: 8 is ignored. -/
theorem test_brightness_set_ignored : after (exec (.brightnessSet 8) (withLooks false 7)) =
    some { withLooks false 7 with result := some 7 } := by decide

/-- S4. -/
theorem test_colon_get : resultOf .colonGet (withLooks true 2) = some (some 0x01) := by decide
theorem test_colon_set : after (exec (.colonSet false) (withLooks true 2)) =
    some { State.reset with result := some 1 } := by decide

/-! ### One step -/

/-- A command word placed at the interface runs in the next step (P2's first word). -/
theorem test_step_colon_set : after (step (State.reset.withFetchWord 64 0x108)) =
    some { State.reset with colon := true, result := some 0 } := by decide

/-- P6's last word. -/
theorem test_step_illegal : after (step (State.reset.withFetchWord 64 0x502)) =
    some { State.reset with refused := true, reasons := [.illegalCommand] } := by decide

/-- R235: `SecondHost` before `IllegalCommand`. -/
theorem test_step_second_host : after (step (State.reset.withHost [.overlapped 0x502])) =
    some { State.reset with refused := true, reasons := [.secondHost] } := by decide

/-! ### Witnesses: a state and operands that meet the hypotheses of each statement, at the ends of their ranges -/

/-- After reset a command that begins with START runs. -/
theorem ready_reset : State.reset.ready := ⟨rfl, rfl, rfl⟩

/-- After START, STOP and WRITE run. -/
theorem inFrame_open : inOpenFrame.inFrame := ⟨rfl, rfl⟩

/-- A state with the clock low and no frame open, which only another reset line state leads to (V11). -/
def clockLow : State := { State.reset with lines := ⟨false, .output, true⟩ }

/-- States with DIO released between commands, which no command leaves behind. -/
def releasedIdle : State := { State.reset with lines := ⟨true, .input, true⟩ }
def releasedOpen : State := { inOpenFrame with lines := ⟨true, .input, false⟩ }

/-- StepKeepsTheInvariant, StepNeverStopsUnderTheInvariant, ClockLowRefusalIsUnreachable: the invariant holds after START
as well, and a step is taken there. -/
theorem witness_invariant : inOpenFrame.Inv ∧ step inOpenFrame = .next inOpenFrame :=
  ⟨⟨⟨rfl, rfl⟩, rfl, ⟨[⟨[], false⟩], rfl, by decide⟩, by simp [State.refusedMarksReasons, inOpenFrame, State.reset],
    by show (2#3 : BitVec 3) ≤ 7#3; decide, by show Config.hardware.wf = true; decide⟩, rfl⟩

/-- DecodeReadsBackEveryEncodedCommand and DecodedWordIsTheOnlySpelling, at the greatest legal count. -/
theorem witness_round_trip : (Instr.set 4 0xFF 0xFF 0 0xFF 0).wellFormed = true ∧
    decodeWord 0x00FF00FF00FF0402 = .command (.set 4 0xFF 0xFF 0 0xFF 0) := by decide

/-- StepRunsTheDecodedCommand, IllegalWordOnlyMarksRefused, OverlappedIssueIsRefusedBeforeDecode,
StepWithNoCommandChangesNothing. -/
theorem witness_interface :
    ((State.reset.withFetchWord 64 0x5).host = [.command 0x5] ∧ decodeWord 0x5 = .command .brightnessGet) ∧
    ((State.reset.withFetchWord 64 0x15).host = [.command 0x15] ∧ decodeWord 0x15 = .illegal .reservedBits) ∧
    (State.reset.withHost [.overlapped 0x5]).host = [.overlapped 0x5] ∧ State.reset.host = [] := by decide

/-- StartOpensAFrame, StopClosesTheFrame, WriteSendsTheByteBitZeroFirst: each clause. -/
theorem witness_primitives : State.reset.ready ∧ inOpenFrame.inFrame ∧ inOpenFrame.frame = .opened ∧
    (clockLow.frame = .idle ∧ clockLow.lines.clkOut = false) ∧ State.reset.frame = .idle :=
  ⟨ready_reset, inFrame_open, rfl, ⟨rfl, rfl⟩, rfl⟩

/-- WriteHoldsEachBitAtItsClockRise. -/
theorem witness_driven : inOpenFrame.lines.dioDir = .output := rfl

/-- PrimitivesMoveTheLog: from idle and from an open frame. -/
theorem witness_log :
    (TxLog.ofTrace State.reset.trace = some [] ∧ (State.reset.frame = .opened ↔ TxLog.isOpen [] = true) ∧
      after (exec .start State.reset) ≠ none) ∧
    (TxLog.ofTrace inOpenFrame.trace = some [⟨[], false⟩] ∧
      (inOpenFrame.frame = .opened ↔ TxLog.isOpen [⟨[], false⟩] = true) ∧
      after (exec (.write 0xFF) inOpenFrame) ≠ none ∧ after (exec .stop inOpenFrame) ≠ none) := by decide

/-- SetSendsItsThreeFrames, SetAddsThreeClosedFrames, SetShowClearChangeOnlyTraceAndLines, SetShowClearEventCounts,
ClearSendsZerosAndKeepsColon, ShowSendsTheDigitsOfTheNumber: counts 0 and 4, DIO driven after reset, in an open frame and at
a low clock, and commands that complete there. -/
theorem witness_display : State.reset.driving ∧ inOpenFrame.driving ∧ clockLow.driving ∧
    IsDisplay (.set 4 0 0 0 0 0) ∧ IsDisplay .clear ∧ IsDisplay (.showNumber 0 false 0 0 0) ∧
    (0 : Byte).toNat ≤ 4 ∧ (4 : Byte).toNat ≤ 4 ∧ TxLog.ofTrace inOpenFrame.trace = some [⟨[], false⟩] ∧
    after (exec (.set 0 0 0 0 0 0) State.reset) ≠ none ∧ after (exec (.set 4 0 0 0 0 0) clockLow) ≠ none ∧
    after (exec (.showNumber 0 false 0 0 0) inOpenFrame) ≠ none ∧ after (exec .clear inOpenFrame) ≠ none :=
  ⟨rfl, rfl, rfl, .set _ _ _ _ _ _ (by decide), .clear, .showNumber .., by decide, by decide, by decide,
    by decide +kernel, by decide +kernel, by decide +kernel, by decide +kernel⟩

/-- SetCountAboveFourIsRefused, at the least count above. -/
theorem witness_count_5 : (5 : Byte).toNat > 4 := by decide

/-- ShowOfZeroFillsTheLastSlot and ShowDropsDigitsFromTheTop, at both ends of the length. -/
theorem witness_lengths : (1 : Byte).toNat ≥ 1 ∧ (4 : Byte).toNat ≤ 4 ∧ (3 : Nat) < 4 ∧ (10 : Byte) = 10 := by decide

/-- EncodeAliasesAndNeverSetsTheColonBit. -/
theorem witness_config : State.reset.config.wf = true := by decide

/-- BrightnessSetReturnsThePreviousValue and CommandsSeeEarlierEffects: each clause, at its boundary, with DIO driven. -/
theorem witness_brightness : (7 : Byte).toNat ≤ State.reset.config.brightMax.toNat ∧
    (8 : Byte).toNat > State.reset.config.brightMax.toNat ∧ State.reset.driving ∧ IsDisplay .clear ∧
    after (exec (.brightnessSet 7) State.reset) ≠ none ∧ after (exec (.brightnessSet 8) State.reset) ≠ none ∧
    after (exec (.colonSet true) State.reset) ≠ none :=
  ⟨by decide, by decide, rfl, .clear, by decide, by decide, by decide⟩

/-- RefusedCommandsChangeOnlyTheMarks: each clause. -/
theorem witness_refused : inOpenFrame.frame = .opened ∧ (clockLow.frame = .idle ∧ clockLow.lines.clkOut = false) ∧
    State.reset.frame = .idle := by decide

/-- PublicCommandsAreNeverRefused, at the greatest count, in an open frame. -/
theorem witness_never_refused : IsPublic (.set 4 0 0 0 0 0) ∧ (Instr.set 4 0 0 0 0 0).wellFormed = true ∧
    inOpenFrame.driving ∧ after (exec (.set 4 0 0 0 0 0) inOpenFrame) ≠ none :=
  ⟨⟨nofun, nofun, fun _ => nofun⟩, by decide, rfl, by decide +kernel⟩

/-- DrivingReleasedDioStops: each clause. -/
theorem witness_released : (releasedIdle.lines.dioDir = .input ∧ releasedIdle.frame = .idle ∧ releasedIdle.lines.clkOut = true) ∧
    (releasedOpen.lines.dioDir = .input ∧ releasedOpen.frame = .opened) ∧ IsDisplay .clear :=
  ⟨by decide, by decide, .clear⟩

/-- RefusedIsSticky and TraceIsAppendOnly: a step from a state already marked. -/
theorem witness_sticky : (State.reset.refuse .secondHost).refused = true ∧
    after (step ((State.reset.refuse .secondHost).withFetchWord 64 0x9)) ≠ none := by decide

/-- OnlyTheSettersWriteRegisters: commands that do change BRIGHTNESS and COLON. -/
theorem witness_setters : (after (exec (.brightnessSet 7) State.reset)).map State.brightness = some 7 ∧
    (after (exec (.colonSet true) State.reset)).map State.colon = some true := by decide

/-- PublicCommandsLeaveTheFrameClosed and OnlyAccessorsGiveAResult: public commands of both kinds, not refused. -/
theorem witness_public : IsPublic .colonGet ∧ ¬ IsDisplay .colonGet ∧ IsPublic .clear ∧ IsDisplay .clear ∧
    (after (exec .colonGet State.reset)).map State.reasons = some [] ∧
    (after (exec .clear inOpenFrame)).map State.reasons = some [] :=
  ⟨⟨nofun, nofun, fun _ => nofun⟩, nofun, ⟨nofun, nofun, fun _ => nofun⟩, .clear, by decide, by decide +kernel⟩

/-- CommandsReadOnlyTheControls: two states that differ in TRACE, RESULT and the refusal marks. -/
theorem witness_controls : State.reset.sameControls ((State.reset.refuse .secondHost).withResult (some 0xFF)) ∧
    after (exec .brightnessGet State.reset) ≠ none := ⟨⟨rfl, rfl, rfl, rfl, rfl⟩, by decide⟩

end Sys2Proof.Tests
end

section
/-! SUPPORT. SHOW's clamps and its zero case. -/

namespace Sys2Proof.Machine

/-- The base clamp by the values it keeps (R171). -/
theorem clampBase_eq (base : Byte) :
    clampBase base = if base = 2 ∨ base = 10 ∨ base = 16 then base else 16 := by
  by_cases h : base = 2 ∨ base = 10 ∨ base = 16
  · rw [clampBase, if_neg (by tauto), if_pos h]
  · rw [clampBase, if_pos (by tauto), if_neg h]

/-- The length clamp by the values it keeps (R171). -/
theorem clampLength_eq (length : Byte) :
    clampLength length = if length = 0 then 1 else if length.toNat ≤ 4 then length else 4 := by
  have hgt : length > 4 ↔ ¬ length.toNat ≤ 4 := by rw [Nat.not_le]; exact Iff.rfl
  simp only [clampLength, hgt, ite_not]

/-- The position clamp by the values it keeps (R171). -/
theorem clampPosition_eq (position : Byte) :
    clampPosition position = if position.toNat ≤ 3 then position else 0 := by
  have hgt : position > 3 ↔ ¬ position.toNat ≤ 3 := by rw [Nat.not_le]; exact Iff.rfl
  simp only [clampPosition, hgt, ite_not]

/-- A clamped base is in range. -/
@[simp] theorem clampBase_clampBase (base : Byte) : clampBase (clampBase base) = clampBase base := by
  rw [clampBase_eq base]
  split
  next h => rw [clampBase_eq, if_pos h]
  next => rfl

/-- A clamped length is in range. -/
@[simp] theorem clampLength_clampLength (length : Byte) :
    clampLength (clampLength length) = clampLength length := by
  apply BitVec.eq_of_toNat_eq
  simp only [clampLength_toNat]
  omega

/-- A clamped position is in range. -/
@[simp] theorem clampPosition_clampPosition (position : Byte) :
    clampPosition (clampPosition position) = clampPosition position := by
  rw [clampPosition_eq position]
  split
  next h => rw [clampPosition_eq, if_pos h]
  next => rfl

/-- SHOW reads its base, length and position only through their clamps (R171). -/
theorem exec_showNumber_clamped (s : State) (number : BitVec numberWidth) (lz : Bool) (base length position : Byte) :
    exec (.showNumber number lz (clampBase base) (clampLength length) (clampPosition position)) s =
      exec (.showNumber number lz base length position) s := by
  simp only [exec, execShowNumber, clampBase_clampBase, clampLength_clampLength, clampPosition_clampPosition]

/-- Settles O31: the forced operands are the clamps, which SHOW applies once more without effect. -/
theorem showClampsEachOperand : Obligations.ShowClampsEachOperand := by
  intro s number lz base length position
  rw [← clampBase_eq, ← clampLength_eq, ← clampPosition_eq, exec_showNumber_clamped]

/-- Every slot of the blank buffer is BLANK. -/
@[simp] theorem Buf.getElem_blank (i : Nat) (h : i < numDigits) : Buf.blank[i] = none :=
  Vector.getElem_replicate h

/-- The zero case of the conversion: one write into the blank buffer (R172). -/
theorem convert_zero (c : Config) (base length : Byte) :
    convert c 0 base length = Buf.blank.setIfInBounds (length.toNat - 1) (some c.segLut[0]) :=
  if_pos rfl

/-- Settles O32: the one slot written is the last of a nonzero length. -/
theorem showOfZeroFillsTheLastSlot : Obligations.ShowOfZeroFillsTheLastSlot := by
  intro c base length i h hpos _
  have hslot : length.toNat - 1 = i ↔ i + 1 = length.toNat := by omega
  simp only [convert_zero, Vector.getElem_setIfInBounds, hslot, Buf.getElem_blank]

end Sys2Proof.Machine
end

section
/-! SUPPORT. The accessors: one equation per command, and the values they read and write. -/

namespace Sys2Proof.Machine

/-! ### One equation per accessor -/

/-- ENCODE answers with a table entry and keeps the state (R200). -/
theorem exec_encode (digit : Byte) (s : State) :
    exec (.encode digit) s = .next (s.withResult (some (readLut s.config (maskDigit digit)))) := rfl

/-- BRIGHTNESS_GET answers with BRIGHTNESS and keeps the state (R203). -/
theorem exec_brightnessGet (s : State) :
    exec .brightnessGet s = .next (s.withResult (some (brightnessResult s))) := rfl

/-- BRIGHTNESS_SET answers with the BRIGHTNESS it found (R205). -/
theorem exec_brightnessSet (v : Byte) (s : State) :
    exec (.brightnessSet v) s =
      .next ((s.withBrightness (nextBrightness s v)).withResult (some (brightnessResult s))) := rfl

/-- COLON_GET answers with COLON and keeps the state (R208). -/
theorem exec_colonGet (s : State) : exec .colonGet s = .next (s.withResult (some (flagResult s.colon))) := rfl

/-- COLON_SET answers with the COLON it found (R209). -/
theorem exec_colonSet (flag : Bool) (s : State) :
    exec (.colonSet flag) s = .next ((s.withColon flag).withResult (some (flagResult s.colon))) := rfl

/-! ### ENCODE's table entry -/

/-- ENCODE's mask keeps the digit modulo 16 (R201). -/
theorem toNat_and_0xF (digit : Byte) : (digit &&& 0xF).toNat = digit.toNat % 16 := by
  rw [BitVec.toNat_and]
  exact Nat.and_two_pow_sub_one_eq_mod digit.toNat 4

/-- The masked digit as a table index. -/
theorem maskDigit_eq (digit : Byte) : maskDigit digit = BitVec.ofNat 4 (digit.toNat % 16) := by
  rw [← toNat_and_0xF, BitVec.ofNat_toNat, maskDigit]

/-- The entry ENCODE answers with is in the table (R200). -/
theorem readLut_maskDigit (c : Config) (digit : Byte) :
    readLut c (maskDigit digit) = c.segLut.toList.getD (digit &&& 0xF).toNat 0 := by
  rw [maskDigit_eq, toNat_and_0xF, readLut_mod c digit.toNat 16 (by decide) (by decide)]

/-- Settles O36: the entry read through the 4-bit address is the list entry at the masked digit. -/
theorem encodeReturnsTheMaskedEntry : Obligations.EncodeReturnsTheMaskedEntry := by
  intro s digit
  rw [exec_encode, readLut_maskDigit, State.withResult]

/-! ### BRIGHTNESS -/

/-- A level up to BRIGHT_MAX is taken (R205). -/
theorem nextBrightness_of_le {s : State} {v : Byte} (h : v.toNat ≤ s.config.brightMax.toNat) :
    nextBrightness s v = BitVec.ofNat 3 v.toNat := by
  have hle : v ≤ s.config.brightMax.setWidth 8 := by
    rw [BitVec.le_def, BitVec.toNat_setWidth_of_le (by decide)]
    exact h
  rw [nextBrightness, if_pos hle, BitVec.ofNat_toNat]

/-- A level above BRIGHT_MAX is ignored (R205). -/
theorem nextBrightness_of_gt {s : State} {v : Byte} (h : v.toNat > s.config.brightMax.toNat) :
    nextBrightness s v = s.brightness := by
  have hnle : ¬ v ≤ s.config.brightMax.setWidth 8 := by
    rw [BitVec.le_def, BitVec.toNat_setWidth_of_le (by decide)]
    exact Nat.not_le.mpr h
  rw [nextBrightness, if_neg hnle]

/-- Writing the BRIGHTNESS it holds leaves a state as it is. -/
@[simp] theorem State.withBrightness_self (s : State) : s.withBrightness s.brightness = s := rfl

/-- Settles O38: BRIGHTNESS_GET's equation. -/
theorem brightnessGetReturnsBrightness : Obligations.BrightnessGetReturnsBrightness := by
  intro s
  rw [exec_brightnessGet, brightnessResult, State.withResult]

/-- Settles O39: BRIGHTNESS_SET's equation, at the level it leaves in each branch. -/
theorem brightnessSetReturnsThePreviousValue : Obligations.BrightnessSetReturnsThePreviousValue := by
  intro s v
  constructor
  · intro hle
    rw [exec_brightnessSet, nextBrightness_of_le hle]
    rfl
  · intro hgt
    rw [exec_brightnessSet, nextBrightness_of_gt hgt, State.withBrightness_self]
    rfl

/-! ### COLON -/

/-- A flag as RESULT shows it (R26). -/
theorem flagResult_eq (flag : Bool) : flagResult flag = if flag then 0x01 else 0x00 := rfl

/-- Settles O40: COLON_GET's equation, in every state and after reset, where COLON is off. -/
theorem colonGetReturnsColon : Obligations.ColonGetReturnsColon := by
  constructor
  · intro s
    rw [exec_colonGet, flagResult_eq, State.withResult]
  · exact exec_colonGet State.reset

/-- Settles O41: COLON_SET's equation, with the flag it found as RESULT. -/
theorem colonSetReturnsThePreviousFlag : Obligations.ColonSetReturnsThePreviousFlag := by
  intro s flag
  rw [exec_colonSet, flagResult_eq]
  rfl

end Sys2Proof.Machine
end

section
/-! SUPPORT. The command word: what it takes, field by field, to be the word of a command, and how the decoder and the
opcode table meet there. -/

namespace Sys2Proof

/-! ### Words as fields -/

theorem append_inj {m n : Nat} {a c : BitVec m} {b d : BitVec n} : a ++ b = c ++ d ↔ a = c ∧ b = d := by
  constructor
  · intro h
    constructor
    · rw [← BitVec.extractLsb'_append_eq_left (a := a) (b := b), h, BitVec.extractLsb'_append_eq_left]
    · rw [← BitVec.extractLsb'_append_eq_right (a := a) (b := b), h, BitVec.extractLsb'_append_eq_right]
  · rintro ⟨rfl, rfl⟩
    rfl

/-- A word as its operand bits above its opcode byte. -/
theorem word_eq_operands (w : CommandWord) : w = wordField w 8 56 ++ wordField w 0 8 :=
  (wordField_all w).symm.trans (wordField_split w 0 8 56)

/-- A word as one operand byte between its opcode byte and the rest. -/
theorem word_eq_operandByte (w : CommandWord) : w = wordField w 16 48 ++ wordField w 8 8 ++ wordField w 0 8 :=
  (word_eq_operands w).trans (congrArg (· ++ wordField w 0 8) (wordField_split w 8 8 48))

/-- The low half of a word as bytes, under its high half. -/
theorem word_eq_lowBytes (w : CommandWord) :
    w = wordField w 32 32 ++ wordField w 24 8 ++ wordField w 16 8 ++ wordField w 8 8 ++ wordField w 0 8 := by
  conv_lhs => rw [word_eq_operandByte w]
  rw [show wordField w 16 48 = wordField w 24 40 ++ wordField w 16 8 from wordField_split w 16 8 40,
    show wordField w 24 40 = wordField w 32 32 ++ wordField w 24 8 from wordField_split w 24 8 32]

/-- The layout of SHOW's word: SHOW's number in the high sixteen bits, bytes below. -/
theorem word_eq_showFields (w : CommandWord) :
    w = wordField w 48 16 ++ wordField w 40 8 ++ wordField w 32 8 ++ wordField w 24 8 ++ wordField w 16 8 ++
      wordField w 8 8 ++ wordField w 0 8 := by
  conv_lhs => rw [word_eq_lowBytes w]
  rw [show wordField w 32 32 = wordField w 40 24 ++ wordField w 32 8 from wordField_split w 32 8 24,
    show wordField w 40 24 = wordField w 48 16 ++ wordField w 40 8 from wordField_split w 40 8 16]

/-- A word as its eight bytes (R52). -/
theorem word_eq_bytes (w : CommandWord) :
    w = wordField w 56 8 ++ wordField w 48 8 ++ wordField w 40 8 ++ wordField w 32 8 ++ wordField w 24 8 ++
      wordField w 16 8 ++ wordField w 8 8 ++ wordField w 0 8 := by
  conv_lhs => rw [word_eq_showFields w]
  rw [show wordField w 48 16 = wordField w 56 8 ++ wordField w 48 8 from wordField_split w 48 8 8]

/-- The opcode byte of a legal word is a zero nibble above the opcode (R72). -/
theorem opcodeByte_iff (w : CommandWord) (op : BitVec 4) :
    wordField w 0 8 = 0#4 ++ op ↔ wordField w 4 4 = 0 ∧ wordField w 0 4 = op := by
  rw [show wordField w 0 8 = wordField w 4 4 ++ wordField w 0 4 from wordField_split w 0 4 4, append_inj]
  rfl

/-- A flag byte is one flag bit under seven reserved bits (R75, R80). -/
theorem flagByte_iff (w : CommandWord) (flag : Bool) :
    wordField w 8 8 = Byte.ofFlag flag ↔ wordField w 9 7 = 0 ∧ wordFlag w 8 = flag := by
  constructor
  · intro h
    have hbit : wordFlag w 8 = (wordField w 8 8).getLsbD 0 := (wordField_getLsbD w 8 8 0 (by decide)).symm
    have hsplit : wordField w 9 7 ++ wordField w 8 1 = 0#7 ++ BitVec.ofBool flag := by
      rw [← show wordField w 8 8 = wordField w 9 7 ++ wordField w 8 1 from wordField_split w 8 1 7, h]
      cases flag <;> rfl
    refine ⟨(append_inj.1 hsplit).1, ?_⟩
    rw [hbit, h]
    cases flag <;> rfl
  · rintro ⟨hz, rfl⟩
    exact wordField_flag w hz

/-! ### The word of a command, field by field -/

/-- The word of a command without operands. -/
theorem plainWord_iff (w : CommandWord) (op : Byte) : 0#56 ++ op = w ↔ wordField w 8 56 = 0 ∧ wordField w 0 8 = op := by
  conv_lhs => rw [word_eq_operands w]
  rw [append_inj, eq_comm, eq_comm (a := op)]
  rfl

/-- The word of a command with one operand byte. -/
theorem byteWord_iff (w : CommandWord) (operand op : Byte) :
    byteWord operand op = w ↔ wordField w 16 48 = 0 ∧ wordField w 8 8 = operand ∧ wordField w 0 8 = op := by
  conv_lhs => rw [word_eq_operandByte w]
  rw [byteWord, append_inj, append_inj, and_assoc, eq_comm, eq_comm (a := operand), eq_comm (a := op)]
  rfl

/-- SET's word (R74). -/
theorem encode_set_iff (w : CommandWord) (count position p0 p1 p2 p3 : Byte) :
    encode (.set count position p0 p1 p2 p3) = w ↔
      wordField w 56 8 = p3 ∧ wordField w 48 8 = p2 ∧ wordField w 40 8 = p1 ∧ wordField w 32 8 = p0 ∧
        wordField w 24 8 = 0 ∧ wordField w 16 8 = position ∧ wordField w 8 8 = count ∧ wordField w 0 8 = 0x02#8 := by
  conv_lhs => rw [word_eq_bytes w]
  rw [encode]
  repeat rw [append_inj]
  tauto

/-- SHOW's word (R75). -/
theorem encode_showNumber_iff (w : CommandWord) (number : BitVec numberWidth) (lz : Bool)
    (base length position : Byte) :
    encode (.showNumber number lz base length position) = w ↔
      wordField w 48 16 = number ∧ wordField w 40 8 = 0 ∧ wordField w 32 8 = position ∧ wordField w 24 8 = length ∧
        wordField w 16 8 = base ∧ wordField w 8 8 = Byte.ofFlag lz ∧ wordField w 0 8 = 0x03#8 := by
  conv_lhs => rw [word_eq_showFields w]
  rw [encode]
  repeat rw [append_inj]
  tauto

/-! ### The decoder against the encoder -/

/-- A legal command without operands has the word of its opcode byte. -/
theorem encode_of_plain {w : CommandWord} {i j : Instr} {op : Byte} (he : encode i = 0#56 ++ op)
    (hi : i.wellFormed = true) (hop : wordField w 0 8 = op)
    (h : Decoded.ifReservedZero (wordField w 8 56 == 0) i = .command j) : encode j = w ∧ j.wellFormed = true := by
  obtain ⟨hz, rfl⟩ := Decoded.ifReservedZero_command h
  exact ⟨he.trans ((plainWord_iff w op).2 ⟨eq_of_beq hz, hop⟩), hi⟩

/-- A legal command with one operand byte has the word of that byte and its opcode byte. -/
theorem encode_of_operandByte {w : CommandWord} {i j : Instr} {op : Byte}
    (he : encode i = byteWord (wordField w 8 8) op) (hi : i.wellFormed = true) (hop : wordField w 0 8 = op)
    (h : Decoded.ifReservedZero (wordField w 16 48 == 0) i = .command j) : encode j = w ∧ j.wellFormed = true := by
  obtain ⟨hz, rfl⟩ := Decoded.ifReservedZero_command h
  exact ⟨he.trans ((byteWord_iff w _ op).2 ⟨eq_of_beq hz, rfl, hop⟩), hi⟩

/-- The reserved bits of COLON_SET's word are those of a one-byte word and those of its flag byte (R80). -/
theorem colonSet_reserved (w : CommandWord) : wordField w 9 55 = 0 ↔ wordField w 16 48 = 0 ∧ wordField w 9 7 = 0 := by
  rw [show wordField w 9 55 = wordField w 16 48 ++ wordField w 9 7 from wordField_split w 9 7 48]
  exact append_inj (a := wordField w 16 48) (c := 0#48) (d := 0#7)

/-- A word that decodes is the word of its command, and the command is well formed (R71, R84). -/
theorem encode_of_decodeWord {w : CommandWord} {i : Instr} (h : decodeWord w = .command i) :
    encode i = w ∧ i.wellFormed = true := by
  unfold decodeWord at h
  split at h
  · cases h
  rename_i hhigh
  have hop : ∀ {k : Nat}, (wordField w 0 4).toNat = k → wordField w 0 8 = 0#4 ++ BitVec.ofNat 4 k := by
    rintro _ rfl
    rw [BitVec.ofNat_toNat, BitVec.setWidth_eq]
    exact (opcodeByte_iff w _).2 ⟨not_not.1 hhigh, rfl⟩
  split at h
  case h_1 hk => exact encode_of_plain rfl rfl (hop hk) h
  case h_2 hk =>
    split_ifs at h with hc
    obtain ⟨hz, rfl⟩ := Decoded.ifReservedZero_command h
    exact ⟨(encode_set_iff ..).2 ⟨rfl, rfl, rfl, rfl, eq_of_beq hz, rfl, rfl, hop hk⟩, decide_eq_true hc⟩
  case h_3 hk =>
    obtain ⟨hz, rfl⟩ := Decoded.ifReservedZero_command h
    obtain ⟨hflag, hbyte⟩ := Bool.and_eq_true_iff.1 hz
    exact ⟨(encode_showNumber_iff ..).2
      ⟨rfl, eq_of_beq hbyte, rfl, rfl, rfl, wordField_flag w (eq_of_beq hflag), hop hk⟩, rfl⟩
  case h_4 hk => exact encode_of_operandByte rfl rfl (hop hk) h
  case h_5 hk => exact encode_of_plain rfl rfl (hop hk) h
  case h_6 hk => exact encode_of_operandByte rfl rfl (hop hk) h
  case h_7 hk => exact encode_of_plain rfl rfl (hop hk) h
  case h_8 hk =>
    obtain ⟨hz, rfl⟩ := Decoded.ifReservedZero_command h
    obtain ⟨hrest, hflag⟩ := (colonSet_reserved w).1 (eq_of_beq hz)
    exact ⟨(byteWord_iff w _ _).2 ⟨hrest, wordField_flag w hflag, hop hk⟩, rfl⟩
  case h_9 hk => exact encode_of_plain rfl rfl (hop hk) h
  case h_10 hk => exact encode_of_plain rfl rfl (hop hk) h
  case h_11 hk => exact encode_of_operandByte rfl rfl (hop hk) h
  case h_12 => cases h

/-- What the decoder reads in a word with one operand byte. -/
theorem fields_of_byteWord (w : CommandWord) (operand : Byte) (op : BitVec 4) (h : byteWord operand (0#4 ++ op) = w) :
    wordField w 4 4 = 0 ∧ wordField w 0 4 = op ∧ wordField w 16 48 = 0 ∧ wordField w 8 8 = operand := by
  obtain ⟨hz, hv, hop⟩ := (byteWord_iff w operand _).1 h
  obtain ⟨hhigh, hlow⟩ := (opcodeByte_iff w op).1 hop
  exact ⟨hhigh, hlow, hz, hv⟩

/-- The word of a well-formed command decodes to the command (R73 to R83, R88). -/
theorem decodeWord_encode {i : Instr} (hi : i.wellFormed = true) : decodeWord (encode i) = .command i := by
  generalize hw : encode i = w
  cases i with
  | clear | brightnessGet | colonGet | start | stop => subst hw; decide
  | colonSet flag => subst hw; cases flag <;> decide
  | set count position p0 p1 p2 p3 =>
    obtain ⟨h3, h2, h1, h0, hz, hp, hc, hop⟩ := (encode_set_iff w ..).1 hw
    obtain ⟨hhigh, hlow⟩ := (opcodeByte_iff w 2#4).1 hop
    have hle : count.toNat ≤ numDigits := of_decide_eq_true hi
    simp [decodeWord, Decoded.ifReservedZero, hhigh, hlow, h3, h2, h1, h0, hz, hp, hc, hle]
  | showNumber number lz base length position =>
    obtain ⟨hn, hz, hp, hl, hb, hf, hop⟩ := (encode_showNumber_iff w ..).1 hw
    obtain ⟨hhigh, hlow⟩ := (opcodeByte_iff w 3#4).1 hop
    obtain ⟨hfz, hlz⟩ := (flagByte_iff w lz).1 hf
    simp [decodeWord, Decoded.ifReservedZero, hhigh, hlow, hn, hz, hp, hl, hb, hfz, hlz]
  | encode v =>
    obtain ⟨hhigh, hlow, hz, hv⟩ := fields_of_byteWord w v 4#4 hw
    simp [decodeWord, Decoded.ifReservedZero, hhigh, hlow, hz, hv]
  | brightnessSet v =>
    obtain ⟨hhigh, hlow, hz, hv⟩ := fields_of_byteWord w v 6#4 hw
    simp [decodeWord, Decoded.ifReservedZero, hhigh, hlow, hz, hv]
  | write v =>
    obtain ⟨hhigh, hlow, hz, hv⟩ := fields_of_byteWord w v 11#4 hw
    simp [decodeWord, Decoded.ifReservedZero, hhigh, hlow, hz, hv]

/-- Settles O6: the decoder reads each field the encoder wrote. -/
theorem decodeReadsBackEveryEncodedCommand : Obligations.DecodeReadsBackEveryEncodedCommand :=
  fun _ => decodeWord_encode

/-- Settles O7: the fields read and the reserved zeros make up the whole word. -/
theorem decodedWordIsTheOnlySpelling : Obligations.DecodedWordIsTheOnlySpelling :=
  fun _ _ => encode_of_decodeWord

/-! ### The decoder against the opcode table -/

/-- The row of every command stands in the table. -/
theorem row_mem_opcodeRows (i : Instr) : i.row ∈ opcodeRows := by
  cases i <;> simp [opcodeRows, Instr.row]

/-- The word of every command lies in the command's row. -/
theorem row_holds_encode (i : Instr) : i.row.holds (encode i) = true := by
  cases i
  case clear => exact Laws.EncodedRow.clear
  case set => apply Laws.EncodedRow.set
  case showNumber => apply Laws.EncodedRow.showNumber
  case encode => apply Laws.EncodedRow.encode
  case brightnessGet => exact Laws.EncodedRow.brightnessGet
  case brightnessSet => apply Laws.EncodedRow.brightnessSet
  case colonGet => exact Laws.EncodedRow.colonGet
  case colonSet => apply Laws.EncodedRow.colonSet
  case start => exact Laws.EncodedRow.start
  case stop => exact Laws.EncodedRow.stop
  case write => apply Laws.EncodedRow.write

/-- A word in a row without operands is the row's pattern. -/
theorem eq_pattern_of_row {w p : CommandWord} (h : OpcodeRow.holds ⟨0xFFFFFFFFFFFFFFFF, p⟩ w = true) : w = p := by
  have hw : w &&& BitVec.allOnes 64 = p := eq_of_beq h
  rwa [BitVec.and_allOnes] at hw

/-- A word in a row with one operand byte is the word of its own operand byte. -/
theorem byteWord_of_row {w : CommandWord} {op : BitVec 4}
    (h : OpcodeRow.holds ⟨0xFFFFFFFFFFFF00FF, 0#60 ++ op⟩ w = true) :
    byteWord (wordField w 8 8) (0#4 ++ op) = w := by
  have hw : w &&& 0xFFFFFFFFFFFF00FF#64 = 0#60 ++ op := eq_of_beq h
  have hp : ∀ op : BitVec 4, wordField (0#60 ++ op) 16 48 = 0 ∧ wordField (0#60 ++ op) 0 8 = 0#4 ++ op := by decide
  exact (byteWord_iff w _ _).2 ⟨(wordField_of_row 16 48 hw (by decide)).trans (hp op).1, rfl,
    (wordField_of_row 0 8 hw (by decide)).trans (hp op).2⟩

/-- The words of the table, with SET's limit on its count, are words of well-formed commands. -/
theorem exists_encode_of_row {w : CommandWord} {r : OpcodeRow} (hr : r ∈ opcodeRows) (h : r.holds w = true)
    (hset : setRow.holds w = true → (wordField w 8 8).toNat ≤ 4) : ∃ i, encode i = w ∧ i.wellFormed = true := by
  simp only [opcodeRows, List.mem_cons, List.not_mem_nil, or_false] at hr
  rcases hr with rfl | rfl | rfl | rfl | rfl | rfl | rfl | rfl | rfl | rfl | rfl
  · exact ⟨.clear, (eq_pattern_of_row h).symm, rfl⟩
  · have hw := eq_of_beq h
    exact ⟨_, (encode_set_iff ..).2 ⟨rfl, rfl, rfl, rfl, wordField_of_row 24 8 hw (by decide), rfl, rfl,
      wordField_of_row 0 8 hw (by decide)⟩, decide_eq_true (hset h)⟩
  · have hw := eq_of_beq h
    have hflag := wordField_flag w (wordField_of_row 9 7 hw (by decide))
    exact ⟨_, (encode_showNumber_iff ..).2 ⟨rfl, wordField_of_row 40 8 hw (by decide), rfl, rfl, rfl, hflag,
      wordField_of_row 0 8 hw (by decide)⟩, rfl⟩
  · exact ⟨.encode _, byteWord_of_row (op := 4) h, rfl⟩
  · exact ⟨.brightnessGet, (eq_pattern_of_row h).symm, rfl⟩
  · exact ⟨.brightnessSet _, byteWord_of_row (op := 6) h, rfl⟩
  · exact ⟨.colonGet, (eq_pattern_of_row h).symm, rfl⟩
  · have hw := eq_of_beq h
    have hflag := wordField_flag w (wordField_of_row 9 7 hw (by decide))
    exact ⟨.colonSet _, (byteWord_iff ..).2 ⟨wordField_of_row 16 48 hw (by decide), hflag,
      wordField_of_row 0 8 hw (by decide)⟩, rfl⟩
  · exact ⟨.start, (eq_pattern_of_row h).symm, rfl⟩
  · exact ⟨.stop, (eq_pattern_of_row h).symm, rfl⟩
  · exact ⟨.write _, byteWord_of_row (op := 11) h, rfl⟩

/-- A word in SET's row that decodes has a legal count (R143). -/
theorem setCount_of_decodeWord {w : CommandWord} {i : Instr} (h : decodeWord w = .command i)
    (hset : setRow.holds w = true) : (wordField w 8 8).toNat ≤ 4 := by
  have hop : wordField w 0 8 = 0x02#8 := wordField_of_row 0 8 (eq_of_beq hset) (by decide)
  obtain ⟨hhigh, hlow⟩ := (opcodeByte_iff w 2#4).1 hop
  by_contra hc
  simp [decodeWord, hhigh, hlow, hc] at h

/-- Settles O8: a word that decodes is its command's word, which lies in the command's row; a word of a row is some
command's word, which decodes. -/
theorem decoderAgreesWithTheOpcodeTable : Obligations.DecoderAgreesWithTheOpcodeTable := by
  have row : ∀ {w : CommandWord} {i : Instr}, decodeWord w = .command i → i.row.holds w = true := by
    intro w i h
    rw [← (encode_of_decodeWord h).1]
    exact row_holds_encode i
  refine ⟨fun w => ⟨?_, ?_⟩, fun w i => row⟩
  · rintro ⟨i, h⟩
    exact ⟨⟨i.row, row_mem_opcodeRows i, row h⟩, setCount_of_decodeWord h⟩
  · rintro ⟨⟨r, hr, h⟩, hset⟩
    obtain ⟨i, rfl, hi⟩ := exists_encode_of_row hr h hset
    exact ⟨i, decodeWord_encode hi⟩

/-! ### Serialised words, and words written out -/

/-- Settles O9: the eight bytes of a word make the word up. -/
theorem serialisedWordIsReadBack : Obligations.SerialisedWordIsReadBack := by
  intro w rest
  have hw : wordOfBytes (bytesOfWord w ++ rest) = some (w, rest) :=
    congrArg (fun v => some (v, rest)) (word_eq_bytes w).symm
  rw [decodeBytes, hw]

/-- Settles O10: each word is decoded. -/
theorem specWordsDecode : Obligations.SpecWordsDecode := by
  unfold Obligations.SpecWordsDecode
  decide

/-- Settles O11: the four lines are assembled; each pseudo-command is its expansion by definition. -/
theorem assemblyExamplesEncode : Obligations.AssemblyExamplesEncode := by
  refine ⟨?_, ?_, ?_, ?_, fun _ _ _ _ => rfl, fun _ => rfl, fun _ => rfl, rfl, rfl, rfl⟩
  all_goals decide

end Sys2Proof
end

section
/-! SUPPORT. Commands as equations: each refusal, each primitive where it runs, and the display commands, all three at
once. -/

namespace Sys2Proof.Machine

/-! ### Bodies run as commands -/

/-- A refused command only marks the state it was issued in (R233). -/
theorem Refusable.exec_eq {i : Instr} {s : State} {r : RefuseReason} (h : Refusable i s r) :
    exec i s = .next (s.refuse r) := by
  cases h with
  | set _ _ _ _ _ _ _ hc => exact if_neg hc
  | startInFrame _ hf => exact runCommand_raised (by rw [callStart_eq, if_pos hf])
  | startClockLow _ hf hk => exact runCommand_raised (by rw [callStart_eq, if_neg (by simp [hf]), if_pos hk])
  | stop _ hf => exact runCommand_raised (by rw [callStop_eq, if_pos hf])
  | write _ _ hf => exact runCommand_raised (by rw [callWrite_eq, if_pos hf])

/-- A body that asks only for DIO driven completes where it is. -/
theorem runCommand_driven {s t : State} {body : State → Flow} (hb : body s = whenDriven s t) (hd : s.driving) :
    runCommand body s = .next (t.withResult none) :=
  runCommand_done (hb.trans (if_pos hd))

/-- A body that asks for DIO driven stops where it is released (log 7). -/
theorem runCommand_released {s t : State} {body : State → Flow} (hb : body s = whenDriven s t)
    (hr : s.lines.dioDir = .input) : runCommand body s = .fault .dioDrivenWhileReleased :=
  runCommand_stopped (hb.trans (if_neg (by simp [hr])))

/-! ### The primitives where they are not refused -/

theorem callStart_of_idle {s : State} (hf : s.frame = .idle) (hk : s.lines.clkOut = true) :
    callStart s = whenDriven s ((s.append startEvents).withFrame .opened) := by
  rw [callStart_eq, if_neg (by simp [hf]), if_neg (by simp [hk])]

theorem callStop_of_opened {s : State} (hf : s.frame = .opened) :
    callStop s = whenDriven s ((s.append stopEvents).withFrame .idle) := by
  rw [callStop_eq, if_neg (by simp [hf])]

theorem callWrite_of_opened {s : State} (byte : Byte) (hf : s.frame = .opened) :
    callWrite byte s = whenDriven s (s.append (writeEvents byte)) := by
  rw [callWrite_eq, if_neg (by simp [hf])]

/-- START from a ready state (R100). -/
theorem exec_start {s : State} (h : s.ready) :
    exec .start s = .next (((s.append startEvents).withFrame .opened).withResult none) := by
  obtain ⟨hf, hk, hd⟩ := h
  exact runCommand_driven (callStart_of_idle hf hk) hd

/-- STOP in an open frame (R103). -/
theorem exec_stop {s : State} (h : s.inFrame) :
    exec .stop s = .next (((s.append stopEvents).withFrame .idle).withResult none) := by
  obtain ⟨hf, hd⟩ := h
  exact runCommand_driven (callStop_of_opened hf) hd

/-- WRITE in an open frame (R106). -/
theorem exec_write {s : State} (byte : Byte) (h : s.inFrame) :
    exec (.write byte) s = .next ((s.append (writeEvents byte)).withResult none) := by
  obtain ⟨hf, hd⟩ := h
  exact runCommand_driven (callWrite_of_opened byte hf) hd

/-! ### The display commands -/

/-- The frames a display command sends from a state (R140, R150, R170); none for another command. -/
def displayFrames (s : State) : Instr → List Frame
  | .clear => setFrames (s.withColon false) 4 0 zeroBuffer
  | .set count position p0 p1 p2 p3 => setFrames s count position #v[p0, p1, p2, p3]
  | .showNumber number lz base length position =>
    setFrames s (clampLength length) (clampPosition position)
      (showBuffer s.config number lz (clampBase base) (clampLength length))
  | .encode _ | .brightnessGet | .brightnessSet _ | .colonGet | .colonSet _ | .start | .stop | .write _ => []

/-- A display command is a body that asks only for DIO driven and appends its frames. -/
theorem IsDisplay.exec_body {i : Instr} (h : IsDisplay i) (s : State) :
    ∃ body, exec i s = runCommand body s ∧
      body s = whenDriven s ((s.append (framesEvents (displayFrames s i))).withFrame .idle) := by
  cases h with
  | clear => exact ⟨_, rfl, callClear_eq s⟩
  | set count position p0 p1 p2 p3 hc => exact ⟨_, if_pos hc, callSet_eq ..⟩
  | showNumber number lz base length position => exact ⟨_, rfl, callSet_eq ..⟩

/-- The frame around every display command's data: the auto-increment byte before it, the display byte after it. -/
theorem IsDisplay.displayFrames_eq {i : Instr} (h : IsDisplay i) (s : State) :
    ∃ bytes, displayFrames s i = [[autoincByte s], bytes, [displayByte s]] := by
  cases h with
  | clear => exact ⟨_, rfl⟩
  | set => exact ⟨_, rfl⟩
  | showNumber => exact ⟨_, rfl⟩

/-- The frames of a display command leave the lines idle (R102). -/
theorem IsDisplay.replay_displayFrames {i : Instr} (h : IsDisplay i) {s : State} (hd : s.driving) :
    s.lines.replay (framesEvents (displayFrames s i)) = Lines.idle := by
  cases h with
  | clear => exact Lines.replay_setFrames _ _ _ _ _ hd
  | set => exact Lines.replay_setFrames _ _ _ _ _ hd
  | showNumber => exact Lines.replay_setFrames _ _ _ _ _ hd

/-- A display command completes while DIO is driven: it sends its frames and changes nothing else. -/
theorem IsDisplay.exec_driven {i : Instr} (h : IsDisplay i) {s : State} (hd : s.driving) :
    exec i s = .next { s with
      lines := Lines.idle, frame := .idle, result := none,
      trace := s.trace ++ framesEvents (displayFrames s i) } := by
  obtain ⟨body, he, hb⟩ := h.exec_body s
  rw [he, runCommand_driven hb hd, State.append, h.replay_displayFrames hd]
  rfl

/-- A display command stops while DIO is released (log 7). -/
theorem IsDisplay.exec_released {i : Instr} (h : IsDisplay i) {s : State} (hr : s.lines.dioDir = .input) :
    exec i s = .fault .dioDrivenWhileReleased := by
  obtain ⟨body, he, hb⟩ := h.exec_body s
  rw [he, runCommand_released hb hr]

/-- BRIGHTNESS has three bits, so its mask keeps it (R142). -/
theorem displayByte_eq (s : State) : displayByte s = s.config.cmdDisplay ||| s.brightness.setWidth 8 :=
  congrArg (fun b : BitVec 3 => s.config.cmdDisplay ||| b.setWidth 8) (BitVec.and_allOnes (x := s.brightness))

/-! ### The command interface -/

/-- Settles O12: the decoded command is admitted. -/
theorem stepRunsTheDecodedCommand : Obligations.StepRunsTheDecodedCommand := by
  intro s w rest i hh hw
  simp only [step, hh, receive, hw, State.withHost]

/-- Settles O13: a word without a command is refused at the interface. -/
theorem illegalWordOnlyMarksRefused : Obligations.IllegalWordOnlyMarksRefused := by
  intro s w rest why hh hw
  simp only [step, hh, receive, hw, refuseIssue, State.refuse, State.withHost]

/-- Settles O14: an overlapped issue is refused before its word is read. -/
theorem overlappedIssueIsRefusedBeforeDecode : Obligations.OverlappedIssueIsRefusedBeforeDecode := by
  intro s w rest hh
  simp only [step, hh, receive, refuseIssue, State.refuse, State.withHost]

/-- Settles O15: the engine waits. -/
theorem stepWithNoCommandChangesNothing : Obligations.StepWithNoCommandChangesNothing := by
  intro s hh
  simp only [step, hh, idleStep]

/-! ### Refusals and stops -/

/-- A refusal changes only the marks. -/
theorem State.onlyRefused_refuse (s : State) (r : RefuseReason) : s.onlyRefused (s.refuse r) r :=
  ⟨rfl, rfl, rfl, rfl, rfl, rfl, rfl, rfl, rfl⟩

/-- A refusable command completes as a refusal. -/
theorem Refusable.onlyRefused {i : Instr} {s : State} {r : RefuseReason} (h : Refusable i s r) :
    ∃ t, exec i s = .next t ∧ s.onlyRefused t r :=
  ⟨s.refuse r, h.exec_eq, s.onlyRefused_refuse r⟩

/-- Settles O27: a SET term with a count no word can have is refusable. -/
theorem setCountAboveFourIsRefused : Obligations.SetCountAboveFourIsRefused :=
  fun s count position p0 p1 p2 p3 hc => (Refusable.set count position p0 p1 p2 p3 s (Nat.not_le.2 hc)).exec_eq

/-- Settles O43: each primitive is refusable there. -/
theorem refusedCommandsChangeOnlyTheMarks : Obligations.RefusedCommandsChangeOnlyTheMarks :=
  fun s => ⟨fun hf => (Refusable.startInFrame s hf).exec_eq, fun hf hk => (Refusable.startClockLow s hf hk).exec_eq,
    fun hf => (Refusable.stop s hf).exec_eq, fun hf byte => (Refusable.write byte s hf).exec_eq⟩

/-- Settles O45: each body asks for DIO driven. -/
theorem drivingReleasedDioStops : Obligations.DrivingReleasedDioStops := by
  intro s hr
  refine ⟨fun i hi => hi.exec_released hr, fun hf hk => ?_, fun hf => ⟨?_, fun byte => ?_⟩⟩
  · exact runCommand_released (callStart_of_idle hf hk) hr
  · exact runCommand_released (callStop_of_opened hf) hr
  · exact runCommand_released (callWrite_of_opened byte hf) hr

/-! ### The primitives' next states -/

/-- Settles O16: START's equation and its two refusals. -/
theorem startOpensAFrame : Obligations.StartOpensAFrame :=
  fun s => ⟨fun hf => (Refusable.startInFrame s hf).onlyRefused,
    fun hf hk => (Refusable.startClockLow s hf hk).onlyRefused, exec_start⟩

/-- Settles O17: STOP's equation and its refusal. -/
theorem stopClosesTheFrame : Obligations.StopClosesTheFrame :=
  fun s => ⟨fun hf => (Refusable.stop s hf).onlyRefused, exec_stop⟩

/-- WRITE's events with the bits written out (R106, R107). -/
theorem writeEvents_eq (byte : Byte) :
    writeEvents byte = ([0, 1, 2, 3, 4, 5, 6, 7].flatMap fun i => bitEvents (byte.getLsbD i)) ++ ackEvents := by
  rw [writeEvents, shiftedBits_eq]
  rfl

/-- Settles O18: WRITE's equation, its events written out, and its refusal. -/
theorem writeSendsTheByteBitZeroFirst : Obligations.WriteSendsTheByteBitZeroFirst := by
  intro byte s
  refine ⟨fun hf => (Refusable.write byte s hf).onlyRefused, fun h => ?_⟩
  rw [exec_write byte h, State.append, Lines.replay_writeEvents, writeEvents_eq]
  rfl

/-! ### SET and CLEAR -/

/-- Settles O25: the frames of SET, written out. -/
theorem setSendsItsThreeFrames : Obligations.SetSendsItsThreeFrames :=
  fun _ count position p0 p1 p2 p3 hc hd => (IsDisplay.set count position p0 p1 p2 p3 hc).exec_driven hd

/-- CLEAR's frames: position 0 and four zero bytes, none with the colon bit (R150, R151). -/
theorem displayFrames_clear (s : State) :
    displayFrames s .clear =
      [[autoincByte s], [s.config.cmdAddr ||| 0x00, 0x00, 0x00, 0x00, 0x00], [displayByte s]] := by
  have hdata : (sentPatterns 4 zeroBuffer).map (dataByte (s.withColon false)) = [0x00, 0x00, 0x00, 0x00] := by
    simp [sentPatterns, zeroBuffer, dataByte, colonMask]
  rw [displayFrames, setFrames, dataFrame, hdata]
  rfl

/-- Settles O28: the frames of CLEAR. -/
theorem clearSendsZerosAndKeepsColon : Obligations.ClearSendsZerosAndKeepsColon := by
  intro s hd
  rw [IsDisplay.clear.exec_driven hd, displayFrames_clear]
  rfl

/-- Settles O29: every display command sends its data between the same two frames. -/
theorem setShowClearChangeOnlyTraceAndLines : Obligations.SetShowClearChangeOnlyTraceAndLines := by
  intro s i hd hi
  obtain ⟨bytes, hb⟩ := hi.displayFrames_eq s
  refine ⟨bytes, ?_⟩
  rw [hi.exec_driven hd, hb]
  rfl

end Sys2Proof.Machine
end

section
/-! SUPPORT. What a WRITE and a frame show on the wire, and how many events and STALLs they take. -/

namespace Sys2Proof.Machine

/-! ### Levels at the clock's rise -/

theorem riseLevels_append (l : Lines) (es fs : List Event) :
    riseLevels l (es ++ fs) = riseLevels l es ++ riseLevels (l.replay es) fs := by
  induction es generalizing l with
  | nil => rfl
  | cons e es ih =>
    simp only [List.cons_append, riseLevels, Lines.replay_cons, ih]
    split <;> rfl

/-- At the one CLK_H of a data bit the engine drives the bit (R107). -/
theorem riseLevels_bitEvents (l : Lines) (bit : Bool) (hd : l.dioDir = .output) :
    riseLevels l (bitEvents bit) = [some bit] := by
  cases bit <;> simp [bitEvents, dataEvent, riseLevels, Lines.apply, Lines.dioDriven, hd]

theorem riseLevels_bits (l : Lines) (bits : List Bool) (hd : l.dioDir = .output) :
    riseLevels l (bits.flatMap bitEvents) = bits.map some := by
  induction bits generalizing l with
  | nil => rfl
  | cons bit bits ih =>
    rw [List.flatMap_cons, riseLevels_append, riseLevels_bitEvents l bit hd, Lines.replay_bitEvents,
      ih ⟨true, l.dioDir, bit⟩ hd]
    rfl

/-- At the one CLK_H of the acknowledgement window DIO is released (R112). -/
theorem riseLevels_ackEvents (l : Lines) : riseLevels l ackEvents = [none] := by
  simp [ackEvents, riseLevels, Lines.apply, Lines.dioDriven]

/-! ### Data events while the clock is low -/

theorem dataOnlyWhileClockLow_append (l : Lines) (es fs : List Event) :
    dataOnlyWhileClockLow l (es ++ fs) = (dataOnlyWhileClockLow l es && dataOnlyWhileClockLow (l.replay es) fs) := by
  induction es generalizing l with
  | nil => rfl
  | cons e es ih => simp only [List.cons_append, dataOnlyWhileClockLow, Lines.replay_cons, ih, Bool.and_assoc]

/-- The data event of a bit stands after its CLK_L (R106, R107). -/
theorem dataOnlyWhileClockLow_bitEvents (l : Lines) (bit : Bool) : dataOnlyWhileClockLow l (bitEvents bit) = true := by
  cases bit <;> simp [bitEvents, dataEvent, dataOnlyWhileClockLow, Lines.apply, Event.dataLevel]

theorem dataOnlyWhileClockLow_bits (l : Lines) (bits : List Bool) :
    dataOnlyWhileClockLow l (bits.flatMap bitEvents) = true := by
  induction bits generalizing l with
  | nil => rfl
  | cons bit bits ih =>
    rw [List.flatMap_cons, dataOnlyWhileClockLow_append, dataOnlyWhileClockLow_bitEvents, ih]
    rfl

/-- The acknowledgement window holds no data event. -/
theorem dataOnlyWhileClockLow_ackEvents (l : Lines) : dataOnlyWhileClockLow l ackEvents = true := by
  simp [ackEvents, dataOnlyWhileClockLow, Event.dataLevel]

/-- The bits WRITE sends, as a range (R107). -/
theorem shiftedBits_eq_range (byte : Byte) : shiftedBits 8 byte = (List.range 8).map fun i => byte.getLsbD i :=
  shiftedBits_eq byte

/-- Settles O19: bit by bit, then the window. -/
theorem writeHoldsEachBitAtItsClockRise : Obligations.WriteHoldsEachBitAtItsClockRise := by
  intro byte l hd
  constructor
  · rw [writeEvents, riseLevels_append, riseLevels_bits l _ hd, riseLevels_ackEvents, shiftedBits_eq_range,
      List.map_map]
    rfl
  · rw [writeEvents, dataOnlyWhileClockLow_append, dataOnlyWhileClockLow_bits, dataOnlyWhileClockLow_ackEvents]
    rfl

/-! ### Counts -/

/-- How often an event stands among the events of data bits: each bit has three STALLs, one CLK_L, one CLK_H and its own
data event (R106). -/
theorem count_bits (bits : List Bool) :
    (bits.flatMap bitEvents).count .stall = 3 * bits.length ∧ (bits.flatMap bitEvents).count .clkL = bits.length ∧
      (bits.flatMap bitEvents).count .clkH = bits.length ∧ (bits.flatMap bitEvents).count .dioIn = 0 ∧
      (bits.flatMap bitEvents).count .dioOutL = 0 ∧ (bits.flatMap bitEvents).count .dioH = bits.count true ∧
      (bits.flatMap bitEvents).count .dioL = bits.count false := by
  induction bits with
  | nil => decide
  | cons bit bits ih =>
    obtain ⟨hs, hl, hh, hi, ho, h1, h0⟩ := ih
    rw [List.flatMap_cons]
    simp only [List.count_append, hs, hl, hh, hi, ho, h1, h0, List.length_cons, List.count_cons]
    cases bit <;> simp [bitEvents, dataEvent] <;> omega

theorem length_bits (bits : List Bool) : (bits.flatMap bitEvents).length = 6 * bits.length := by
  induction bits with
  | nil => rfl
  | cons bit bits ih =>
    rw [List.flatMap_cons, List.length_append, ih, List.length_cons, Nat.mul_succ]
    exact Nat.add_comm ..

/-- A WRITE has 58 events (R110). -/
theorem length_writeEvents (byte : Byte) : (writeEvents byte).length = 58 := by
  rw [writeEvents, List.length_append, length_bits, shiftedBits_length]
  rfl

/-- A WRITE has 29 STALLs (R110). -/
theorem stallCount_writeEvents (byte : Byte) : stallCount (writeEvents byte) = 29 := by
  rw [stallCount, writeEvents, List.count_append, (count_bits _).1, shiftedBits_length]
  rfl

/-- Settles O20: the counts of eight data bits and of the window. -/
theorem writeEventCounts : Obligations.WriteEventCounts := by
  intro byte
  obtain ⟨-, hl, hh, hi, ho, h1, h0⟩ := count_bits (shiftedBits 8 byte)
  have hlen := shiftedBits_length byte
  refine ⟨length_writeEvents byte, stallCount_writeEvents byte, ?_, ?_, ?_, ?_, ?_, ?_⟩
  · rw [writeEvents, List.count_append, hl, hlen]; rfl
  · rw [writeEvents, List.count_append, hh, hlen]; rfl
  · rw [writeEvents, List.count_append, hi]; rfl
  · rw [writeEvents, List.count_append, ho]; rfl
  · rw [writeEvents, List.count_append, h1, shiftedBits_eq_range, List.count_eq_countP, List.countP_map]
    simp [ackEvents, Function.comp_def]
  · have hbits : (shiftedBits 8 byte).count false + (shiftedBits 8 byte).count true = 8 := by
      rw [List.count_false_add_count_true, hlen]
    rw [writeEvents, List.count_append, List.count_append, h1, h0]
    simpa [ackEvents] using hbits

theorem stallCount_append (es fs : List Event) : stallCount (es ++ fs) = stallCount es + stallCount fs :=
  List.count_append

theorem length_writes (bytes : List Byte) : (bytes.flatMap writeEvents).length = 58 * bytes.length := by
  induction bytes with
  | nil => rfl
  | cons b bs ih => rw [List.flatMap_cons, List.length_append, length_writeEvents, ih, List.length_cons]; omega

theorem stallCount_writes (bytes : List Byte) : stallCount (bytes.flatMap writeEvents) = 29 * bytes.length := by
  induction bytes with
  | nil => rfl
  | cons b bs ih => rw [List.flatMap_cons, stallCount_append, stallCount_writeEvents, ih, List.length_cons]; omega

/-- The events of a frame: START's two, 58 of each WRITE, STOP's six (R115). -/
theorem length_frameEvents (bytes : Frame) : (frameEvents bytes).length = 2 + 58 * bytes.length + 6 := by
  rw [frameEvents, openFrameEvents, List.length_append, List.length_append, length_writes]
  rfl

/-- The STALLs of a frame: START's one, 29 of each WRITE, STOP's three (R115, R269). -/
theorem stallCount_frameEvents (bytes : Frame) : stallCount (frameEvents bytes) = 29 * bytes.length + 4 := by
  rw [frameEvents, openFrameEvents, stallCount_append, stallCount_append, stallCount_writes,
    show stallCount startEvents = 1 from rfl, show stallCount stopEvents = 3 from rfl]
  omega

/-- Settles O21: the counts of START, WRITEs and STOP. -/
theorem frameEventCounts : Obligations.FrameEventCounts :=
  fun c bytes => ⟨length_frameEvents bytes, stallCount_frameEvents bytes,
    congrArg (c.stallUs * ·) (stallCount_frameEvents bytes)⟩

/-- The counts of SET's three frames (R145, R269). -/
theorem setFrames_counts (s : State) (count position : Byte) (p : Vector Byte numDigits) (hc : count.toNat ≤ numDigits) :
    (framesEvents (setFrames s count position p)).length = 198 + 58 * count.toNat ∧
      stallCount (framesEvents (setFrames s count position p)) = 99 + 29 * count.toNat := by
  have hdata : (dataFrame s count position p).length = 1 + count.toNat := by
    simp only [dataFrame, sentPatterns, List.length_cons, List.length_map, List.length_take, Vector.length_toList]
    omega
  simp only [framesEvents, setFrames, List.flatMap_cons, List.flatMap_nil, List.append_nil, List.length_append,
    stallCount_append, length_frameEvents, stallCount_frameEvents, hdata, List.length_singleton]
  omega

/-- What a display command adds to TRACE while DIO is driven. -/
theorem IsDisplay.trace_eq {i : Instr} (hi : IsDisplay i) {s t : State} (hd : s.driving) (h : exec i s = .next t) :
    t.trace = s.trace ++ framesEvents (displayFrames s i) := by
  rw [hi.exec_driven hd] at h
  exact congrArg State.trace (Host.Outcome.next.inj h).symm

/-- Settles O30: each display command sends SET's frames for its own count. -/
theorem setShowClearEventCounts : Obligations.SetShowClearEventCounts := by
  intro s t hd
  refine ⟨fun count position p0 p1 p2 p3 hc h => ?_, fun number lz base length position h => ?_, fun h => ?_⟩
  · rw [(IsDisplay.set count position p0 p1 p2 p3 hc).trace_eq hd h, List.length_append, stallCount_append]
    obtain ⟨hl, hs⟩ := setFrames_counts s count position #v[p0, p1, p2, p3] hc
    exact ⟨congrArg _ hl, congrArg _ hs⟩
  · rw [(IsDisplay.showNumber number lz base length position).trace_eq hd h, List.length_append, stallCount_append,
      ← clampLength_toNat]
    obtain ⟨hl, hs⟩ := setFrames_counts s (clampLength length) (clampPosition position)
      (showBuffer s.config number lz (clampBase base) (clampLength length))
      (by rw [clampLength_toNat, numDigits]; omega)
    exact ⟨congrArg _ hl, congrArg _ hs⟩
  · rw [IsDisplay.clear.trace_eq hd h, List.length_append, stallCount_append]
    obtain ⟨hl, hs⟩ := setFrames_counts (s.withColon false) 4 0 zeroBuffer (by decide)
    exact ⟨congrArg _ hl, congrArg _ hs⟩

/-! ### START and STOP conditions -/

theorem wireConditions_append (l : Lines) (es fs : List Event) :
    wireConditions l (es ++ fs) = wireConditions l es ++ wireConditions (l.replay es) fs := by
  induction es generalizing l with
  | nil => rfl
  | cons e es ih => simp only [List.cons_append, wireConditions, Lines.replay_cons, ih, List.append_assoc]

/-- A STALL moves no line, so it makes no condition. -/
@[simp] theorem Lines.condition_stall (l : Lines) : l.condition .stall = none := by
  rcases l with ⟨clk, dir, dio⟩
  cases clk <;> cases dir <;> cases dio <;> rfl

/-- A data bit makes no condition: DIO moves only while CLK is low (R107). -/
theorem wireConditions_bitEvents (l : Lines) (bit : Bool) : wireConditions l (bitEvents bit) = [] := by
  simp only [bitEvents, wireConditions, Lines.apply_dataEvent, Lines.condition_stall]
  simp [Lines.condition, Lines.apply]

theorem wireConditions_bits (l : Lines) (bits : List Bool) : wireConditions l (bits.flatMap bitEvents) = [] := by
  induction bits generalizing l with
  | nil => rfl
  | cons bit bits ih => rw [List.flatMap_cons, wireConditions_append, wireConditions_bitEvents, ih]; rfl

/-- The acknowledgement window makes no condition: DIO_OUT_L is no driven edge (R113). -/
theorem wireConditions_ackEvents (l : Lines) : wireConditions l ackEvents = [] := by
  simp [ackEvents, wireConditions, Lines.condition, Lines.apply, Lines.dioDriven]

/-- WRITEs make no condition. -/
theorem wireConditions_writes (l : Lines) (bytes : List Byte) : wireConditions l (bytes.flatMap writeEvents) = [] := by
  induction bytes generalizing l with
  | nil => rfl
  | cons b bs ih =>
    rw [List.flatMap_cons, wireConditions_append, ih, writeEvents, wireConditions_append, wireConditions_bits,
      wireConditions_ackEvents]
    rfl

/-- STOP makes its condition wherever DIO is driven low (R104). -/
theorem wireConditions_stopEvents (l : Lines) (hd : l.dioDir = .output) (ho : l.dioOut = false) :
    wireConditions l stopEvents = [.stop] := by
  simp [stopEvents, wireConditions, Lines.condition, Lines.apply, Lines.dioDriven, hd, ho]

/-- Settles O22: START makes one condition, WRITEs none, STOP one. -/
theorem frameMakesOneStartAndOneStop : Obligations.FrameMakesOneStartAndOneStop := by
  intro bytes
  obtain ⟨hd, ho⟩ := Lines.replay_writes (Lines.idle.replay startEvents) bytes rfl
  rw [frameEvents, openFrameEvents, wireConditions_append, wireConditions_append, wireConditions_writes,
    Lines.replay_append, wireConditions_stopEvents _ hd (ho rfl)]
  rfl

end Sys2Proof.Machine
end

section
/-! SUPPORT. TXLOG read from TRACE: the reader reads exactly the events of the log it gives. -/

namespace Sys2Proof.Machine

/-! ### What is read is the log's events -/

/-- What the reader adds to a log is the events it read. -/
theorem TxLog.events_of_read {fuel : Nat} {log more : TxLog} {es : List Event}
    (h : TxLog.read fuel log es = some more) : more.events = log.events ++ es := by
  fun_induction TxLog.read fuel log es with
  | case1 => rw [Option.some.inj h, List.append_nil]
  | case2 | case4 | case7 | case8 => cases h
  | case3 fuel log rest hopen ih =>
    rw [ih h, (TxLog.events_stop hopen).1, List.append_assoc]
    rfl
  | case5 fuel log rest _ ih =>
    rw [ih h, TxLog.events_start, List.append_assoc]
    rfl
  | case6 fuel log e es _ _ hopen b rest hw ih =>
    rw [ih h, (TxLog.events_write b hopen).1, List.append_assoc, ← (takeWrite_iff _ _ b).1 hw]

/-! ### A log's events are read as the log -/

/-- The events are read into the log as `more`, with any fuel that reaches their end. -/
def TxLog.Reads (log : TxLog) (es : List Event) (more : TxLog) : Prop :=
  ∀ fuel, es.length ≤ fuel → TxLog.read fuel log es = some more

theorem TxLog.Reads.nil (log : TxLog) : log.Reads [] log := fun fuel _ => by cases fuel <;> rfl

/-- A START is read where no CLK_H follows it, which would make it the head of a STOP. -/
theorem TxLog.Reads.start {log more : TxLog} {rest : List Event} (hrest : rest.head? ≠ some .clkH)
    (h : log.start.Reads rest more) : log.Reads (startEvents ++ rest) more := by
  intro fuel hfuel
  obtain ⟨fuel, rfl⟩ : ∃ k, fuel = k + 1 := ⟨fuel - 1, by simp [startEvents] at hfuel; omega⟩
  rw [← h fuel (by simp [startEvents] at hfuel; omega), startEvents, List.cons_append, List.cons_append,
    List.nil_append, TxLog.read]
  rintro rest' rfl
  exact hrest rfl

/-- A WRITE is read in an open frame. -/
theorem TxLog.Reads.write {log more : TxLog} {b : Byte} {rest : List Event} (hopen : log.isOpen = true)
    (h : (log.write b).Reads rest more) : log.Reads (writeEvents b ++ rest) more := by
  intro fuel hfuel
  have hw := (takeWrite_iff (writeEvents b ++ rest) rest b).2 rfl
  rw [List.length_append, length_writeEvents] at hfuel
  obtain ⟨fuel, rfl⟩ : ∃ k, fuel = k + 1 := ⟨fuel - 1, by omega⟩
  rw [← h fuel (by omega)]
  obtain ⟨es, hes⟩ : ∃ es, writeEvents b ++ rest = .clkL :: es := ⟨_, rfl⟩
  rw [hes] at hw ⊢
  simp [TxLog.read, hopen, hw]

/-- A STOP is read in an open frame. -/
theorem TxLog.Reads.stop {log more : TxLog} {rest : List Event} (hopen : log.isOpen = true)
    (h : log.stop.Reads rest more) : log.Reads (stopEvents ++ rest) more := by
  intro fuel hfuel
  obtain ⟨fuel, rfl⟩ : ∃ k, fuel = k + 1 := ⟨fuel - 1, by simp [stopEvents] at hfuel; omega⟩
  rw [← h fuel (by simp [stopEvents] at hfuel; omega)]
  simp [stopEvents, TxLog.read, hopen]

/-- WRITEs are read into the open frame at the end of the log. -/
theorem TxLog.Reads.writes {log more : TxLog} {sent bytes : Frame} {rest : List Event}
    (h : TxLog.Reads (log ++ [⟨sent ++ bytes, false⟩]) rest more) :
    TxLog.Reads (log ++ [⟨sent, false⟩]) (bytes.flatMap writeEvents ++ rest) more := by
  induction bytes generalizing sent with
  | nil => simpa using h
  | cons b bs ih =>
    rw [List.flatMap_cons, List.append_assoc]
    refine TxLog.Reads.write ((TxLog.isOpen_iff _).2 ⟨log, sent, rfl⟩) ?_
    rw [TxLog.write, TxLog.mapLast_append]
    exact ih (by simpa using h)

/-- One frame is read, closed or not, where no CLK_H follows it. -/
theorem TxLog.Reads.frame {log more : TxLog} {frame : LoggedFrame} {rest : List Event}
    (hrest : rest.head? ≠ some .clkH) (h : TxLog.Reads (log ++ [frame]) rest more) :
    log.Reads (frame.events ++ rest) more := by
  obtain ⟨bytes, closed⟩ := frame
  rw [LoggedFrame.events, openFrameEvents, List.append_assoc, List.append_assoc]
  cases closed with
  | true =>
    refine TxLog.Reads.start (by cases bytes <;> exact fun hc => by cases hc) (TxLog.Reads.writes ?_)
    refine TxLog.Reads.stop ((TxLog.isOpen_iff _).2 ⟨log, _, rfl⟩) ?_
    rw [TxLog.stop, TxLog.mapLast_append]
    exact h
  | false =>
    refine TxLog.Reads.start ?_ (TxLog.Reads.writes h)
    cases bytes with
    | nil => exact hrest
    | cons => exact fun hc => by cases hc

/-- A log's events do not begin with CLK_H. -/
theorem TxLog.head?_events (log : TxLog) : log.events.head? ≠ some .clkH := by
  cases log with
  | nil => exact fun hc => by cases hc
  | cons => exact fun hc => by cases hc

/-- The events of more frames are read after a log. -/
theorem TxLog.reads_events (log more : TxLog) : log.Reads more.events (log ++ more) := by
  induction more generalizing log with
  | nil => simpa using TxLog.Reads.nil log
  | cons frame rest ih =>
    have hrest := ih (log ++ [frame])
    rw [List.append_assoc] at hrest
    exact TxLog.Reads.frame (TxLog.head?_events rest) hrest

/-- TRACE reads as a log exactly when it is the log's events (R114). -/
theorem TxLog.ofTrace_eq_some_iff (es : List Event) (log : TxLog) : TxLog.ofTrace es = some log ↔ es = log.events := by
  constructor
  · intro h
    exact (TxLog.events_of_read h).symm
  · rintro rfl
    exact TxLog.reads_events [] log _ le_rfl

/-- Settles O23: what is read is the log's events, and a log's events are read as the log. -/
theorem txLogAndTraceDetermineEachOther : Obligations.TxLogAndTraceDetermineEachOther :=
  TxLog.ofTrace_eq_some_iff

/-! ### What commands do to the log -/

/-- Settles O24: each primitive appends the events its move of the log adds. -/
theorem primitivesMoveTheLog : Obligations.PrimitivesMoveTheLog := by
  intro s t log byte hlog hopen
  simp only [TxLog.ofTrace_eq_some_iff] at hlog ⊢
  refine ⟨fun hs h => ?_, fun hs h => ?_, fun hs h => ?_⟩
  · obtain rfl := Host.Outcome.next.inj ((exec_start hs).symm.trans h)
    simp [hlog, TxLog.events_start]
  · obtain rfl := Host.Outcome.next.inj ((exec_write byte hs).symm.trans h)
    simp [hlog, (TxLog.events_write byte (hopen.1 hs.1)).1]
  · obtain rfl := Host.Outcome.next.inj ((exec_stop hs).symm.trans h)
    simp [hlog, (TxLog.events_stop (hopen.1 hs.1)).1]

/-- A display command adds its frames to the log, closed (R145, R152, R179). -/
theorem IsDisplay.ofTrace {i : Instr} (hi : IsDisplay i) {s t : State} {log : TxLog} (hd : s.driving)
    (hlog : TxLog.ofTrace s.trace = some log) (h : exec i s = .next t) :
    TxLog.ofTrace t.trace = some (log ++ TxLog.ofClosed (displayFrames s i)) := by
  rw [TxLog.ofTrace_eq_some_iff] at hlog ⊢
  rw [hi.trace_eq hd h, hlog, TxLog.events_append, TxLog.events_ofClosed]

/-- A data byte is the pattern, with the colon bit while COLON = 1 (R141). -/
theorem dataByte_eq (s : State) (p : Byte) : dataByte s p = if s.colon then p ||| 0x80 else p := by
  rw [dataByte, colonMask]
  split
  · rfl
  · exact BitVec.or_zero

/-- Settles O26: the log's new frames are SET's. -/
theorem setAddsThreeClosedFrames : Obligations.SetAddsThreeClosedFrames := by
  intro s t log count position p0 p1 p2 p3 hc hd hlog h
  refine ⟨([p0, p1, p2, p3].take count.toNat).map (dataByte s), ?_, fun k hk => ?_, ?_⟩
  · simpa using hc
  · rw [List.getElem?_map, List.getElem?_take_of_lt hk, funext (dataByte_eq s)]
  · rw [(IsDisplay.set count position p0 p1 p2 p3 hc).ofTrace hd hlog h, ← displayByte_eq]
    rfl

end Sys2Proof.Machine
end

section
/-! SUPPORT. SHOW's slots, and what each command sees of the commands before it. -/

namespace Sys2Proof.Machine

/-! ### The resolved slots -/

/-- A resolved slot is its pattern, or the blank fill (R176). -/
theorem resolveBlanks_getElem (c : Config) (lz : Bool) (buf : Buf) (i : Nat) (hi : i < numDigits) :
    (resolveBlanks c lz buf)[i] = buf[i].getD (blankFill c lz) :=
  Vector.getElem_map ..

/-- Settles O33: the fill of each slot, by whether it is BLANK. -/
theorem blanksResolveOverAllSlots : Obligations.BlanksResolveOverAllSlots := by
  intro c lz buf i hi
  rw [resolveBlanks_getElem]
  split
  next pattern hp => rw [hp, Option.getD_some]
  next hb => rw [hb, Option.getD_none]; rfl

/-- Slot `i` of the `length` slots SHOW sends of `n` in a base (R178): digit `length - 1 - i` where the number reaches
it, the blank fill above. -/
def showSlot (c : Config) (n : Nat) (lz : Bool) (base length i : Nat) : Byte :=
  if i + 1 = length ∨ n ≥ base ^ (length - 1 - i) then c.segLut.toList.getD (n / base ^ (length - 1 - i) % base) 0
  else blankFill c lz

/-- A clamped base is 2 to 16 (R171). -/
theorem clampBase_range (base : Byte) : 2 ≤ (clampBase base).toNat ∧ (clampBase base).toNat ≤ 16 := by
  rw [clampBase_eq]
  split
  next h => rcases h with rfl | rfl | rfl <;> decide
  next => decide

/-- The conversion fills the slots sent with the digits the number reaches, the last one in any case (R172, R173). -/
theorem convert_getElem (c : Config) (number : BitVec numberWidth) (base length : Byte)
    (hb : 2 ≤ base.toNat ∧ base.toNat ≤ 16) (hl : length.toNat ≤ 4) (i : Nat) (hi : i < length.toNat) :
    (convert c number base length)[i]'(by simp only [numDigits]; omega) =
      if i + 1 = length.toNat ∨ number.toNat ≥ base.toNat ^ (length.toNat - 1 - i) then
        some (c.segLut.toList.getD (number.toNat / base.toNat ^ (length.toNat - 1 - i) % base.toNat) 0)
      else none := by
  have hpow : 0 < base.toNat ^ (length.toNat - 1 - i) := Nat.pow_pos (by omega)
  by_cases hz : number = 0
  · subst hz
    have hslot : length.toNat - 1 = i ↔ i + 1 = length.toNat := by omega
    have hreach : ¬ (0 : BitVec numberWidth).toNat ≥ base.toNat ^ (length.toNat - 1 - i) :=
      Nat.not_le.2 hpow
    simp only [convert_zero, Vector.getElem_setIfInBounds, hslot, Buf.getElem_blank, hreach, or_false]
    simp
  · have hn : 1 ≤ number.toNat := by
      rw [Nat.one_le_iff_ne_zero]
      exact fun h => hz (BitVec.eq_of_toNat_eq h)
    have hlast : i + 1 = length.toNat → number.toNat ≥ base.toNat ^ (length.toNat - 1 - i) := by
      intro h
      rwa [show length.toNat - 1 - i = 0 by omega, Nat.pow_zero]
    have hc : convert c number base length = fillDigits c base.toNat length.toNat number.toNat Buf.blank := if_neg hz
    simp only [hc, fillDigits_getElem c base.toNat hb.1 hb.2 length.toNat number.toNat hl Buf.blank i (by omega),
      Buf.getElem_blank, hi, true_and, or_iff_right_of_imp hlast]

/-- The patterns SHOW hands to SET are its slots (R178). -/
theorem sentPatterns_showBuffer (c : Config) (number : BitVec numberWidth) (lz : Bool) (base length : Byte) :
    sentPatterns (clampLength length) (showBuffer c number lz (clampBase base) (clampLength length)) =
      (List.range (clampLength length).toNat).map
        (showSlot c number.toNat lz (clampBase base).toNat (clampLength length).toNat) := by
  have hl : (clampLength length).toNat ≤ 4 := by rw [clampLength_toNat]; omega
  apply List.ext_getElem
  · simpa [sentPatterns, numDigits] using hl
  · intro i hi _
    have hi' : i < (clampLength length).toNat := by
      simp only [sentPatterns, List.length_take] at hi
      omega
    simp only [sentPatterns, showBuffer, List.getElem_take, Vector.getElem_toList, resolveBlanks_getElem,
      convert_getElem c number _ _ (clampBase_range base) hl i hi', List.getElem_map, List.getElem_range, showSlot]
    split <;> rfl

/-- The closed form of R178 is SHOW's slots, its operands clamped. -/
theorem closedFormSlots_eq (c : Config) (number : BitVec numberWidth) (lz : Bool) (base length : Byte) :
    closedFormSlots c number lz base length =
      (List.range (clampLength length).toNat).map
        (showSlot c number.toNat lz (clampBase base).toNat (clampLength length).toNat) := by
  rw [clampLength_toNat, clampBase_eq, apply_ite BitVec.toNat]
  rfl

/-- SHOW's frames: SET's, with the slots of the closed form as data (R178, R179). -/
theorem displayFrames_showNumber (s : State) (number : BitVec numberWidth) (lz : Bool) (base length position : Byte) :
    displayFrames s (.showNumber number lz base length position) =
      [[autoincByte s],
       (s.config.cmdAddr ||| (if position.toNat ≤ 3 then position else 0)) ::
         (closedFormSlots s.config number lz base length).map (dataByte s),
       [displayByte s]] := by
  have haddr : addressByte s (clampPosition position) =
      s.config.cmdAddr ||| (if position.toNat ≤ 3 then position else 0) := by
    rw [addressByte, clampPosition_eq]
    split
    next h =>
      have hmask : position &&& 3#8 = position := by
        apply BitVec.eq_of_toNat_eq
        rw [BitVec.toNat_and]
        exact (Nat.and_two_pow_sub_one_eq_mod position.toNat 2).trans (Nat.mod_eq_of_lt (by omega))
      exact congrArg _ hmask
    next => rfl
  rw [displayFrames, setFrames, dataFrame, haddr, sentPatterns_showBuffer, closedFormSlots_eq]

/-- Settles O34: SHOW's frames. -/
theorem showSendsTheDigitsOfTheNumber : Obligations.ShowSendsTheDigitsOfTheNumber := by
  intro s number lz base length position hd
  rw [(IsDisplay.showNumber number lz base length position).exec_driven hd, displayFrames_showNumber]
  rfl

/-- With leading zeros every slot shows its digit, 0 where the number does not reach it (R175, R176). -/
theorem showSlot_leadingZeros (c : Config) (n base length i : Nat) :
    showSlot c n true base length i = c.segLut.toList.getD (n / base ^ (length - 1 - i) % base) 0 := by
  rw [showSlot]
  split
  next => rfl
  next h =>
    rw [not_or, Nat.not_le] at h
    rw [Nat.div_eq_of_lt h.2, Nat.zero_mod]
    simp [blankFill, readLut]

/-- Digit `k` of a number is digit `k` of its low `k + more + 1` digits (R175). -/
theorem digit_mod_pow (n base k more : Nat) :
    n % base ^ (k + (more + 1)) / base ^ k % base = n / base ^ k % base := by
  rw [Nat.pow_add, Nat.mod_mul_right_div_self, Nat.mod_mod_of_dvd _ (Dvd.intro_left _ (Nat.pow_succ ..).symm)]

/-- Two display commands that send the same frames from a state are the same there. -/
theorem IsDisplay.exec_congr {i j : Instr} (hi : IsDisplay i) (hj : IsDisplay j) {s : State}
    (h : displayFrames s i = displayFrames s j) : exec i s = exec j s := by
  cases hd : s.lines.dioDir with
  | output => rw [hi.exec_driven hd, hj.exec_driven hd, h]
  | input => rw [hi.exec_released hd, hj.exec_released hd]

/-- With leading zeros the closed form reads only the low digits (R175). -/
theorem closedFormSlots_mod_pow (c : Config) (number : BitVec numberWidth) (base length : Byte) :
    closedFormSlots c number true base length =
      closedFormSlots c (BitVec.ofNat 16 (number.toNat % (clampBase base).toNat ^ (clampLength length).toNat)) true base
        length := by
  have hlow : (BitVec.ofNat numberWidth (number.toNat % (clampBase base).toNat ^ (clampLength length).toNat)).toNat =
      number.toNat % (clampBase base).toNat ^ (clampLength length).toNat := by
    rw [BitVec.toNat_ofNat, Nat.mod_eq_of_lt (lt_of_le_of_lt (Nat.mod_le ..) number.isLt)]
  rw [closedFormSlots_eq, closedFormSlots_eq]
  apply List.map_congr_left
  intro i hi
  have hdigit := digit_mod_pow number.toNat (clampBase base).toNat ((clampLength length).toNat - 1 - i) i
  rw [List.mem_range] at hi
  rw [show (clampLength length).toNat - 1 - i + (i + 1) = (clampLength length).toNat by omega] at hdigit
  rw [showSlot_leadingZeros, showSlot_leadingZeros, hlow, hdigit]

/-- Settles O35: the slots of both numbers are the same. -/
theorem showDropsDigitsFromTheTop : Obligations.ShowDropsDigitsFromTheTop := by
  intro s number base length position hb hl hl'
  have hbase : clampBase base = base := by rw [clampBase_eq, if_pos hb]
  have hlength : (clampLength length).toNat = length.toNat := by rw [clampLength_toNat]; omega
  have hslots := closedFormSlots_mod_pow s.config number base length
  rw [hbase, hlength] at hslots
  apply IsDisplay.exec_congr (.showNumber ..) (.showNumber ..)
  rw [displayFrames_showNumber, displayFrames_showNumber, hslots]

/-! ### ENCODE's corner cases -/

/-- Every table entry of well-formed parameters has COLON_BIT clear (R34). -/
theorem readLut_colonBit {c : Config} (hc : c.wf = true) (i : BitVec 4) : readLut c i &&& colonBit = 0#8 := by
  simp only [Config.wf, Bool.and_eq_true, List.all_eq_true, beq_iff_eq] at hc
  obtain ⟨⟨hlut, -⟩, -⟩ := hc
  exact hlut _ (by simp [readLut])

/-- Settles O37: the mask of the digit, and the table entry it reads. -/
theorem encodeAliasesAndNeverSetsTheColonBit : Obligations.EncodeAliasesAndNeverSetsTheColonBit := by
  intro s digit
  constructor
  · have hmask : maskDigit (BitVec.ofNat 8 (digit.toNat % 16)) = maskDigit digit := by
      rw [maskDigit_eq, maskDigit_eq, BitVec.toNat_ofNat]
      congr 1
      omega
    rw [exec_encode, exec_encode, hmask]
  · intro hc
    refine ⟨readLut s.config (maskDigit digit), exec_encode digit s, ?_⟩
    have hbit := congrArg (BitVec.getLsbD · 7) (readLut_colonBit hc (maskDigit digit))
    simpa [colonBit] using hbit

/-! ### Effects of earlier commands -/

/-- A level BRIGHTNESS takes is the level it gives back (R203, R205). -/
theorem setWidth_brightness {v : Byte} {m : BitVec 3} (hv : v.toNat ≤ m.toNat) :
    (BitVec.ofNat 3 v.toNat).setWidth 8 = v := by
  apply BitVec.eq_of_toNat_eq
  rw [BitVec.toNat_setWidth, BitVec.toNat_ofNat]
  omega

/-- What follows an accepted BRIGHTNESS_SET (R206, R268). -/
theorem displayByte_of_brightnessSet {s t : State} {v : Byte} (h : exec (.brightnessSet v) s = .next t)
    (hv : v.toNat ≤ s.config.brightMax.toNat) :
    brightnessResult t = v ∧ displayByte t = s.config.cmdDisplay ||| v := by
  rw [exec_brightnessSet, nextBrightness_of_le hv] at h
  obtain rfl := Host.Outcome.next.inj h
  exact ⟨setWidth_brightness hv, (displayByte_eq _).trans (congrArg _ (setWidth_brightness hv))⟩

/-- Settles O42: the next command reads the state the setter left, in which only the register and RESULT are new. -/
theorem commandsSeeEarlierEffects : Obligations.CommandsSeeEarlierEffects := by
  constructor
  · intro s t v h
    obtain rfl := Host.Outcome.next.inj ((exec_brightnessSet v s).symm.trans h)
    refine ⟨rfl, fun hv => ?_⟩
    obtain ⟨hget, hshow⟩ := displayByte_of_brightnessSet (exec_brightnessSet v s) hv
    refine ⟨?_, fun count position p0 p1 p2 p3 hc hd => ?_, fun i hi hd => ?_⟩
    · rw [exec_brightnessGet, hget]
      rfl
    · refine ⟨_, (IsDisplay.set count position p0 p1 p2 p3 hc).exec_driven hd, ?_⟩
      rw [← hshow]
      rfl
    · obtain ⟨bytes, hb⟩ := hi.displayFrames_eq
        ((s.withBrightness (nextBrightness s v)).withResult (some (brightnessResult s)))
      refine ⟨_, bytes, hi.exec_driven hd, ?_⟩
      rw [hb, hshow]
      rfl
  · intro s t flag h
    obtain rfl := Host.Outcome.next.inj ((exec_colonSet flag s).symm.trans h)
    refine ⟨rfl, exec_colonGet _, fun count position p0 p1 p2 p3 hc hd => ?_,
      fun number lz base length position hd => ?_⟩
    · exact ⟨_, (IsDisplay.set count position p0 p1 p2 p3 hc).exec_driven hd, rfl⟩
    · refine ⟨_, (IsDisplay.showNumber number lz base length position).exec_driven hd, ?_⟩
      rw [displayFrames_showNumber]
      rfl

end Sys2Proof.Machine
end

section
/-! SUPPORT. What every command keeps: refusal marks, TRACE, registers, FRAME, RESULT, and the controls a later command
reads. -/

namespace Sys2Proof.Machine

/-! ### Refusal marks -/

/-- A command leaves the refusal marks, or is refused as it may be. -/
theorem Effect.marks {i : Instr} {s t : State} (h : Effect s i t) :
    (t.refused = s.refused ∧ t.reasons = s.reasons) ∨ ∃ r, Refusable i s r ∧ t = s.refuse r := by
  cases h with
  | refused _ r hr => exact .inr ⟨r, hr, rfl⟩
  | display | start | stop | write | encode | brightnessGet | brightnessSet | colonGet | colonSet =>
    exact .inl (by simp)

/-- No well-formed public command is refusable (R235). -/
theorem Refusable.not_public {i : Instr} {s : State} {r : RefuseReason} (h : Refusable i s r) (hi : i.wellFormed = true) :
    ¬ IsPublic i := by
  rintro ⟨hstart, hstop, hwrite⟩
  cases h with
  | set _ _ _ _ _ _ _ hc => exact hc (of_decide_eq_true hi)
  | startInFrame | startClockLow => exact hstart rfl
  | stop => exact hstop rfl
  | write byte => exact hwrite byte rfl

/-- While DIO is driven every command completes or is refused; none stops (R29, log 7). -/
theorem exec_completes {s : State} (hd : s.driving) (i : Instr) : ∃ t, exec i s = .next t := by
  cases i with
  | clear => exact ⟨_, IsDisplay.clear.exec_driven hd⟩
  | set count position p0 p1 p2 p3 =>
    by_cases hc : count.toNat ≤ numDigits
    · exact ⟨_, (IsDisplay.set count position p0 p1 p2 p3 hc).exec_driven hd⟩
    · exact ⟨_, (Refusable.set count position p0 p1 p2 p3 s hc).exec_eq⟩
  | showNumber number lz base length position =>
    exact ⟨_, (IsDisplay.showNumber number lz base length position).exec_driven hd⟩
  | encode digit => exact ⟨_, exec_encode digit s⟩
  | brightnessGet => exact ⟨_, exec_brightnessGet s⟩
  | brightnessSet v => exact ⟨_, exec_brightnessSet v s⟩
  | colonGet => exact ⟨_, exec_colonGet s⟩
  | colonSet flag => exact ⟨_, exec_colonSet flag s⟩
  | start =>
    cases hf : s.frame with
    | opened => exact ⟨_, (Refusable.startInFrame s hf).exec_eq⟩
    | idle =>
      cases hk : s.lines.clkOut with
      | true => exact ⟨_, exec_start ⟨hf, hk, hd⟩⟩
      | false => exact ⟨_, (Refusable.startClockLow s hf hk).exec_eq⟩
  | stop =>
    cases hf : s.frame with
    | opened => exact ⟨_, exec_stop ⟨hf, hd⟩⟩
    | idle => exact ⟨_, (Refusable.stop s hf).exec_eq⟩
  | write byte =>
    cases hf : s.frame with
    | opened => exact ⟨_, exec_write byte ⟨hf, hd⟩⟩
    | idle => exact ⟨_, (Refusable.write byte s hf).exec_eq⟩

/-- Settles O44: such a command is not refusable, and completes while DIO is driven. -/
theorem publicCommandsAreNeverRefused : Obligations.PublicCommandsAreNeverRefused := by
  intro i s hp hi
  refine ⟨fun t h => ?_, fun hd => exec_completes hd i⟩
  rcases (exec_effect h).marks with hm | ⟨r, hr, -⟩
  · exact hm
  · exact absurd hp (hr.not_public hi)

/-- What a step does to the refusal marks: nothing, or one reason more and the mark set (R233, R235). -/
theorem step_marks {s t : State} (h : step s = .next t) :
    (t.refused = s.refused ∧ t.reasons = s.reasons) ∨ (t.refused = true ∧ ∃ r, t.reasons = s.reasons ++ [r]) := by
  rcases step_cases h with ⟨-, rfl⟩ | ⟨issue, rest, -, ⟨i, -, he⟩ | ⟨r, -, -, rfl⟩⟩
  · exact .inl ⟨rfl, rfl⟩
  · rcases (exec_effect he).marks with hm | ⟨r, -, rfl⟩
    · exact .inl hm
    · exact .inr ⟨rfl, r, rfl⟩
  · exact .inr ⟨rfl, r, rfl⟩

/-- Settles O46: a step keeps the marks or adds one. -/
theorem refusedIsSticky : Obligations.RefusedIsSticky := by
  intro s t h
  rcases step_marks h with ⟨hm, hr⟩ | ⟨hm, hr⟩
  · exact ⟨fun ht => hm.symm.trans ht, .inl hr⟩
  · exact ⟨fun ht => absurd (hm.symm.trans ht) (by decide), .inr hr⟩

/-! ### TRACE -/

/-- A command appends its events to TRACE (R30). -/
theorem Effect.trace_append {i : Instr} {s t : State} (h : Effect s i t) : ∃ es, t.trace = s.trace ++ es := by
  cases h with
  | display | start | stop | write => exact ⟨_, rfl⟩
  | encode | brightnessGet | brightnessSet | colonGet | colonSet | refused => exact ⟨[], (List.append_nil _).symm⟩

/-- Settles O47: only a command moves TRACE, and it appends. -/
theorem traceIsAppendOnly : Obligations.TraceIsAppendOnly := by
  intro s t h
  rcases step_cases h with ⟨-, rfl⟩ | ⟨issue, rest, -, ⟨i, -, he⟩ | ⟨r, -, -, rfl⟩⟩
  · exact List.prefix_rfl
  · obtain ⟨es, ht⟩ := (exec_effect he).trace_append
    exact ⟨es, ht.symm⟩
  · exact List.prefix_rfl

/-! ### Registers -/

/-- A level above BRIGHT_MAX does not change BRIGHTNESS (R205). -/
theorem le_brightMax_of_nextBrightness_ne {s : State} {v : Byte} (h : nextBrightness s v ≠ s.brightness) :
    v.toNat ≤ s.config.brightMax.toNat := by
  by_contra hgt
  exact h (nextBrightness_of_gt (Nat.not_le.1 hgt))

/-- Settles O48: case by case, the fields a command writes. -/
theorem onlyTheSettersWriteRegisters : Obligations.OnlyTheSettersWriteRegisters := by
  intro i s t h
  cases exec_effect h with
  | brightnessSet v =>
    refine ⟨rfl, rfl, fun hb => ⟨v, rfl, le_brightMax_of_nextBrightness_ne hb⟩, ?_⟩
    simp
  | colonSet | display | start | stop | write | encode | brightnessGet | colonGet | refused => simp

/-! ### FRAME, the lines and RESULT after a public command -/

/-- Settles O49: a display command ends idle, any other public command leaves FRAME, the lines and TRACE. -/
theorem publicCommandsLeaveTheFrameClosed : Obligations.PublicCommandsLeaveTheFrameClosed := by
  rintro i s t ⟨hstart, hstop, hwrite⟩ h
  refine ⟨fun hi => ?_, fun hi => ?_⟩
  · cases exec_effect h with
    | display _ u count position p _ hd => 
      simpa using Lines.replay_setFrames u s.lines count position p hd
    | start | stop | write | encode | brightnessGet | brightnessSet | colonGet | colonSet => cases hi
    | refused _ r hr =>
      cases hr with
      | set _ _ _ _ _ _ _ hc => cases hi with | set _ _ _ _ _ _ hle => exact absurd hle hc
      | startInFrame | startClockLow | stop | write => cases hi
  · cases exec_effect h with
    | display _ _ _ _ _ hdisplay => exact absurd hdisplay hi
    | start => exact absurd rfl hstart
    | stop => exact absurd rfl hstop
    | write byte => exact absurd rfl (hwrite byte)
    | encode | brightnessGet | brightnessSet | colonGet | colonSet | refused => exact ⟨rfl, rfl, rfl⟩

/-- Settles O50: a value for each accessor, none for each other command. -/
theorem onlyAccessorsGiveAResult : Obligations.OnlyAccessorsGiveAResult := by
  intro i s t h hr
  cases exec_effect h with
  | display _ _ _ _ _ hi => cases hi <;> simp
  | refused => simp at hr
  | start | stop | write | encode | brightnessGet | brightnessSet | colonGet | colonSet => simp

/-! ### Non-interference -/

theorem Refusable.congr {i : Instr} {s t : State} {r : RefuseReason} (h : Refusable i s r) (hst : s.sameControls t) :
    Refusable i t r := by
  obtain ⟨-, -, -, hl, hf⟩ := hst
  cases h with
  | set _ _ _ _ _ _ _ hc => exact .set _ _ _ _ _ _ t hc
  | startInFrame _ h => exact .startInFrame t (hf ▸ h)
  | startClockLow _ h hk => exact .startClockLow t (hf ▸ h) (hl ▸ hk)
  | stop _ h => exact .stop t (hf ▸ h)
  | write byte _ h => exact .write byte t (hf ▸ h)

/-- What SET sends depends on the parameters, BRIGHTNESS and COLON alone (R140 to R142). -/
theorem setFrames_congr {s t : State} (hc : s.config = t.config) (hb : s.brightness = t.brightness)
    (hk : s.colon = t.colon) (count position : Byte) (p : Vector Byte numDigits) :
    setFrames s count position p = setFrames t count position p := by
  have hdata : dataByte s = dataByte t := by funext; simp only [dataByte, hk]
  simp only [setFrames, autoincByte, dataFrame, addressByte, displayByte, hc, hb, hdata]

theorem IsDisplay.displayFrames_congr {i : Instr} (hi : IsDisplay i) {s t : State} (hst : s.sameControls t) :
    displayFrames s i = displayFrames t i := by
  obtain ⟨hc, hb, hk, -, -⟩ := hst
  cases hi with
  | clear => exact setFrames_congr (s := s.withColon false) (t := t.withColon false) hc hb rfl _ _ _
  | set => exact setFrames_congr hc hb hk _ _ _
  | showNumber => simp only [displayFrames, hc, setFrames_congr hc hb hk]

/-- Settles O51: each command does the same from both states. -/
theorem commandsReadOnlyTheControls : Obligations.CommandsReadOnlyTheControls := by
  intro i s t s' hst h
  obtain ⟨hc, hb, hk, hl, hf⟩ := id hst
  cases exec_effect h with
  | refused _ r hr =>
    exact ⟨t.refuse r, (hr.congr hst).exec_eq, hst, ⟨[], by simp⟩, .inl ⟨r, rfl, rfl⟩⟩
  | display _ _ _ _ _ hi hd =>
    have ht : t.driving := by rw [State.driving, ← hl]; exact hd
    rw [hi.exec_driven hd] at h
    rw [← Host.Outcome.next.inj h, hi.exec_driven ht, ← hi.displayFrames_congr hst]
    exact ⟨_, rfl, ⟨hc, hb, hk, rfl, rfl⟩, ⟨_, rfl, rfl⟩, .inr ⟨rfl, rfl, rfl⟩⟩
  | start hs =>
    have ht : t.ready := by rw [State.ready, ← hf, ← hl]; exact hs
    exact ⟨_, exec_start ht, by simp [State.sameControls, hc, hb, hk, hl], ⟨_, rfl, rfl⟩, .inr ⟨rfl, rfl, rfl⟩⟩
  | stop hs =>
    have ht : t.inFrame := by rw [State.inFrame, ← hf, ← hl]; exact hs
    exact ⟨_, exec_stop ht, by simp [State.sameControls, hc, hb, hk, hl], ⟨_, rfl, rfl⟩, .inr ⟨rfl, rfl, rfl⟩⟩
  | write byte hs =>
    have ht : t.inFrame := by rw [State.inFrame, ← hf, ← hl]; exact hs
    exact ⟨_, exec_write byte ht, by simp [State.sameControls, hc, hb, hk, hf], ⟨_, rfl, rfl⟩, .inr ⟨rfl, rfl, rfl⟩⟩
  | encode digit => exact ⟨_, exec_encode digit t, hst, ⟨[], by simp⟩, .inr ⟨rfl, rfl, by simp [hc]⟩⟩
  | brightnessGet =>
    exact ⟨_, exec_brightnessGet t, hst, ⟨[], by simp⟩, .inr ⟨rfl, rfl, by simp [brightnessResult, hb]⟩⟩
  | brightnessSet v =>
    have hnext : nextBrightness s v = nextBrightness t v := by simp only [nextBrightness, hc, hb]
    exact ⟨_, exec_brightnessSet v t, ⟨hc, hnext, hk, hl, hf⟩, ⟨[], by simp⟩,
      .inr ⟨rfl, rfl, by simp [brightnessResult, hb]⟩⟩
  | colonGet => exact ⟨_, exec_colonGet t, hst, ⟨[], by simp⟩, .inr ⟨rfl, rfl, by simp [hk]⟩⟩
  | colonSet flag =>
    exact ⟨_, exec_colonSet flag t, ⟨hc, hb, rfl, hl, hf⟩, ⟨[], by simp⟩, .inr ⟨rfl, rfl, by simp [hk]⟩⟩

end Sys2Proof.Machine
end

section
/-! SUPPORT. The engine's invariant: reset meets it, every step keeps it, and under it no step stops. -/

namespace Sys2Proof.Machine

/-! ### Updates that keep the invariant -/

/-- The invariant speaks of no RESULT. -/
theorem State.Inv.withResult {s : State} (h : s.Inv) (v : Option Byte) : (s.withResult v).Inv :=
  ⟨h.linesMatchFrame, h.linesFollowTrace, h.traceIsLog, h.refusedMarksReasons, h.brightnessInRange, h.configOk⟩

/-- The invariant speaks of no host issue. -/
theorem State.Inv.withHost {s : State} (h : s.Inv) (v : List HostIssue) : (s.withHost v).Inv :=
  ⟨h.linesMatchFrame, h.linesFollowTrace, h.traceIsLog, h.refusedMarksReasons, h.brightnessInRange, h.configOk⟩

/-- The invariant speaks of no COLON. -/
theorem State.Inv.withColon {s : State} (h : s.Inv) (v : Bool) : (s.withColon v).Inv :=
  ⟨h.linesMatchFrame, h.linesFollowTrace, h.traceIsLog, h.refusedMarksReasons, h.brightnessInRange, h.configOk⟩

/-- A level up to BRIGHT_MAX keeps the invariant (R205). -/
theorem State.Inv.withBrightness {s : State} (h : s.Inv) {v : BitVec 3} (hv : v ≤ s.config.brightMax) :
    (s.withBrightness v).Inv :=
  ⟨h.linesMatchFrame, h.linesFollowTrace, h.traceIsLog, h.refusedMarksReasons, hv, h.configOk⟩

/-- A refusal sets the mark with its reason (R233). -/
theorem State.Inv.refuse {s : State} (h : s.Inv) (r : RefuseReason) : (s.refuse r).Inv :=
  ⟨h.linesMatchFrame, h.linesFollowTrace, h.traceIsLog, by simp [State.refusedMarksReasons], h.brightnessInRange,
    h.configOk⟩

/-- Appended events keep the invariant where they leave the lines as FRAME asks and are what a log adds to TRACE. -/
theorem State.Inv.append {s : State} (h : s.Inv) (es : List Event) (frame : Framing)
    (hlines : ((s.append es).withFrame frame).linesMatchFrame)
    (hlog : ∀ log : TxLog, (s.frame = .opened ↔ log.isOpen = true) →
      ∃ more : TxLog, more.events = log.events ++ es ∧ (frame = .opened ↔ more.isOpen = true)) :
    ((s.append es).withFrame frame).Inv := by
  refine ⟨hlines, ?_, ?_, h.refusedMarksReasons, h.brightnessInRange, h.configOk⟩
  · have hfollow : s.lines = Lines.idle.replay s.trace := h.linesFollowTrace
    simp [State.linesFollowTrace, hfollow]
  · obtain ⟨log, htrace, hopen⟩ := h.traceIsLog
    obtain ⟨more, hmore, hframe⟩ := hlog log hopen
    exact ⟨more, by simp [htrace, hmore], hframe⟩

/-- BRIGHTNESS_SET leaves a level up to BRIGHT_MAX (R205). -/
theorem State.Inv.nextBrightness_le {s : State} (h : s.Inv) (v : Byte) : nextBrightness s v ≤ s.config.brightMax := by
  by_cases hv : v.toNat ≤ s.config.brightMax.toNat
  · rw [nextBrightness_of_le hv, BitVec.le_def, BitVec.toNat_ofNat]
    omega
  · rw [nextBrightness_of_gt (Nat.not_le.1 hv)]
    exact h.brightnessInRange

/-- The last of SET's frames is closed. -/
theorem isOpen_setFrames (log : TxLog) (s : State) (count position : Byte) (p : Vector Byte numDigits) :
    TxLog.isOpen (log ++ TxLog.ofClosed (setFrames s count position p)) = false := by
  simp [TxLog.isOpen, TxLog.ofClosed, setFrames]

/-! ### Commands and steps -/

/-- Every command keeps the invariant. -/
theorem Effect.inv {i : Instr} {s t : State} (h : Effect s i t) (hs : s.Inv) : t.Inv := by
  cases h with
  | display _ u count position p _ hd =>
    have hidle := Lines.replay_setFrames u s.lines count position p hd
    refine (hs.append _ .idle (by simpa [State.linesMatchFrame] using hidle) fun log _ => ?_).withResult none
    exact ⟨log ++ TxLog.ofClosed (setFrames u count position p), by simp, by simp [isOpen_setFrames]⟩
  | start hr =>
    obtain ⟨-, -, hd⟩ := hr
    refine (hs.append startEvents .opened ⟨hd, rfl⟩ fun log _ => ?_).withResult none
    exact ⟨log.start, log.events_start, by simp⟩
  | stop hf =>
    obtain ⟨hf, hd⟩ := hf
    refine (hs.append _ .idle ?_ fun log hopen => ?_).withResult none
    · simp [State.linesMatchFrame, hd, Lines.idle]
    · obtain ⟨hev, hclosed⟩ := TxLog.events_stop (hopen.1 hf)
      exact ⟨log.stop, hev, by simp [hclosed]⟩
  | write byte hf =>
    obtain ⟨hf, -⟩ := hf
    have hkeep : (s.append (writeEvents byte)).withFrame .opened = s.append (writeEvents byte) := by
      rw [← hf]
      rfl
    rw [← hkeep]
    refine (hs.append _ .opened ?_ fun log hopen => ?_).withResult none
    · simp [State.linesMatchFrame]
    · obtain ⟨hev, hopened⟩ := TxLog.events_write byte (hopen.1 hf)
      exact ⟨log.write byte, hev, by simp [hopened]⟩
  | encode | brightnessGet | colonGet => exact hs.withResult _
  | brightnessSet v => exact (hs.withBrightness (hs.nextBrightness_le v)).withResult _
  | colonSet flag => exact (hs.withColon flag).withResult _
  | refused _ r => exact hs.refuse r

/-- Every step keeps the invariant. -/
theorem step_inv {s t : State} (hs : s.Inv) (h : step s = .next t) : t.Inv := by
  rcases step_cases h with ⟨-, rfl⟩ | ⟨issue, rest, -, ⟨i, -, he⟩ | ⟨r, -, -, rfl⟩⟩
  · exact hs
  · exact (exec_effect he).inv (hs.withHost rest)
  · exact (hs.withHost rest).refuse r

/-- While DIO is driven every step answers a next state, whatever the host has issued. -/
theorem step_completes {s : State} (hd : s.driving) : ∃ t, step s = .next t := by
  unfold step
  split
  · exact ⟨s, rfl⟩
  next issue rest _ =>
    split
    · exact exec_completes (s := s.withHost rest) hd _
    · exact ⟨_, rfl⟩

/-- Settles O3: a step is a wait, a command or a refusal, and each keeps the invariant. -/
theorem stepKeepsTheInvariant : Obligations.StepKeepsTheInvariant :=
  fun _ _ => step_inv

/-- Settles O4: the invariant keeps DIO driven, so the step completes, and it keeps the invariant. -/
theorem stepNeverStopsUnderTheInvariant : Obligations.StepNeverStopsUnderTheInvariant := by
  intro s hs
  obtain ⟨t, ht⟩ := step_completes hs.driving
  exact ⟨t, ht, step_inv hs ht⟩

/-- The invariant leaves no START to refuse for its clock: with FRAME idle CLK is high (R102). -/
theorem State.Inv.not_startClockLow {s : State} (hs : s.Inv) (i : Instr) : ¬ Refusable i s .startClockLow := by
  intro h
  cases h with
  | startClockLow _ hf hk =>
    have hl := hs.linesMatchFrame
    rw [State.linesMatchFrame, hf] at hl
    rw [hl] at hk
    cases hk

/-- Settles O5: a command adds only the reason it is refusable for, and the interface adds others. -/
theorem clockLowRefusalIsUnreachable : Obligations.ClockLowRefusalIsUnreachable := by
  intro s t hs h
  rcases step_cases h with ⟨-, rfl⟩ | ⟨issue, rest, -, ⟨i, -, he⟩ | ⟨r, -, hr, rfl⟩⟩
  · simp
  · rcases (exec_effect he).marks with ⟨-, hm⟩ | ⟨r, hr, rfl⟩
    · simp [hm]
    · have hne : r ≠ .startClockLow := by
        rintro rfl
        exact (hs.withHost rest).not_startClockLow i hr
      simpa using hne
  · simpa using hr

/-! ### Reset -/

/-- Settles O1: the fields of the reset state. -/
theorem resetLeavesTheSpecValues : Obligations.ResetLeavesTheSpecValues := by
  unfold Obligations.ResetLeavesTheSpecValues
  decide

/-- Settles O2: the lines are idle, no event and no refusal has been, and the parameters are the hardware's. -/
theorem resetMeetsTheInvariant : Obligations.ResetMeetsTheInvariant where
  linesMatchFrame := rfl
  linesFollowTrace := rfl
  traceIsLog := ⟨[], rfl, by decide⟩
  refusedMarksReasons := by simp [State.refusedMarksReasons, State.reset]
  brightnessInRange := by unfold State.brightnessInRange; decide
  configOk := by unfold State.configOk; decide

end Sys2Proof.Machine
end
